-- ==== Sys2Proof/Word.lean ====
section
/-! DEFINITION. The plainest types of the model: a byte, a bus word, a rotation amount. -/

namespace Sys2Proof

/-- One byte of a key or block byte string (00_scope.md R10). -/
abbrev Byte := BitVec 8

/-- The 32-bit value of one register of the window: every bus access moves exactly one (20_memory.md R52). -/
abbrev BusWord := BitVec 32

/-- A rotation amount `n` of a word of `w` bits, with `0 < n < w` (00_scope.md R8, 40_word_ops.md R104).
The source defines no rotation by another amount (93_implementation_defined.md U2 refuses it), so none can be written. -/
abbrev RotAmount (w : Nat) := { n : Nat // 0 < n ∧ n < w }

end Sys2Proof
end

