-- ==== Sys2Proof/Config.lean ====
section
/-! DEFINITION. What an instance of the block fixes (VARIANT, BASE, LAT) and the free values. -/

namespace Sys2Proof

/-- VARIANT, the synthesis parameter: exactly the five options in scope (00_scope.md R2, 10_state.md R22).
No other parameter set can be named (92_eei_decisions.md D31). -/
inductive Variant where
  | speck64x96
  | speck64x128
  | speck128x128
  | speck128x192
  | speck128x256
deriving DecidableEq, Repr

/-- The registers for which the spec marks a value UNSPECIFIED somewhere (00_scope.md R13, 10_state.md R41, R32), and those
that a protocol violation leaves with any value (60_exceptions.md R210): which register a free value is drawn for. -/
inductive FreeReg where
  | x
  | y
  | rc
  | k
  | l
  | rk
  | keyValid
  | busy
  | pend
  | cmdLatch
  | err
  | keyLen
  | blkLen
  | keybuf
  | blkbuf
  | statusRead
  | violatingRead
deriving DecidableEq, Repr

/-- The free values (00_scope.md R13: "a model gives it a free value (a draw)"): the `w`-bit value drawn at free-value
event number `event` for element `index` of register `reg`. It has no body, so no proof can know any value of it.
Safe (log 3, log 6). -/
opaque Config.draw (event : Nat) (reg : FreeReg) (index : Nat) (w : Nat) : BitVec w

/-- How many host transactions the port takes between the issue drawn at event `event` and its completion: the free
position of a completion in the total order of 20_memory.md R63. Safe (log 5). -/
opaque Config.drawLag (event : Nat) : Nat

/-- BASE in units of 256 bytes. -/
opaque Config.basePage : Nat

/-- BASE, the byte address of the register window, 256-byte aligned and otherwise open (00_scope.md R9; log 14). -/
def Config.base : Nat := 256 * Config.basePage

/-- LAT less one. -/
opaque Config.latencyLessOne (op : Byte) (outcome : BitVec 4) (v : Variant) : Nat

/-- LAT(op, outcome, VARIANT): the latency of a command in clock cycles, a positive integer that depends on its opcode,
its outcome code and VARIANT alone (00_scope.md R9, 70_reset_and_hazards.md R240). No rule of the model reads it (log 15). -/
def Config.latency (op : Byte) (outcome : BitVec 4) (v : Variant) : Nat :=
  Config.latencyLessOne op outcome v + 1

end Sys2Proof
end

