-- ==== Sys2Proof/Machine/Params.lean ====
section
/-! DEFINITION. The parameters that follow from VARIANT (00_scope.md R2, R6, R7) and the word type they give. -/

namespace Sys2Proof

/-- The code of VARIANT that ID reads back (00_scope.md R2, first column). -/
def Variant.code : Variant → Nat
  | .speck64x96 => 1
  | .speck64x128 => 2
  | .speck128x128 => 3
  | .speck128x192 => 4
  | .speck128x256 => 5

/-- WB, the bytes of a word: 4 or 8 (00_scope.md R7). -/
abbrev Variant.wordBytes : Variant → Nat
  | .speck64x96 => 4
  | .speck64x128 => 4
  | .speck128x128 => 8
  | .speck128x192 => 8
  | .speck128x256 => 8

/-- M = KEY_WORDS (00_scope.md R2). -/
abbrev Variant.keyWords : Variant → Nat
  | .speck64x96 => 3
  | .speck64x128 => 4
  | .speck128x128 => 2
  | .speck128x192 => 3
  | .speck128x256 => 4

/-- T = ROUNDS (00_scope.md R2). -/
abbrev Variant.rounds : Variant → Nat
  | .speck64x96 => 26
  | .speck64x128 => 27
  | .speck128x128 => 32
  | .speck128x192 => 33
  | .speck128x256 => 34

/-- β = ROTATE_LEFT (00_scope.md R2). -/
def Variant.rotateLeft : Variant → Nat
  | .speck64x96 => 3
  | .speck64x128 => 3
  | .speck128x128 => 3
  | .speck128x192 => 3
  | .speck128x256 => 3

/-- α = ROTATE_RIGHT (00_scope.md R2). -/
def Variant.rotateRight : Variant → Nat
  | .speck64x96 => 8
  | .speck64x128 => 8
  | .speck128x128 => 8
  | .speck128x192 => 8
  | .speck128x256 => 8

/-- W = 8 × WB, the bits of a word (00_scope.md R7). -/
abbrev Variant.wordBits (v : Variant) : Nat := 8 * v.wordBytes

/-- KEY_BYTES = M × WB (00_scope.md R7). -/
abbrev Variant.keyBytes (v : Variant) : Nat := v.keyWords * v.wordBytes

/-- BLOCK_BYTES = 2 × WB (00_scope.md R7). -/
abbrev Variant.blockBytes (v : Variant) : Nat := 2 * v.wordBytes

/-- NL = M − 1, the size of the leftover buffer (00_scope.md R7). -/
abbrev Variant.leftovers (v : Variant) : Nat := v.keyWords - 1

/-- A word of the instance: W bits, unsigned (00_scope.md R11). -/
abbrev Word (v : Variant) := BitVec v.wordBits

theorem Variant.leftovers_pos (v : Variant) : 0 < v.leftovers := by cases v <;> decide

theorem Variant.keyWords_eq (v : Variant) : v.keyWords = v.leftovers + 1 := by cases v <;> decide

theorem Variant.keyWords_le (v : Variant) : v.keyWords ≤ 4 := by cases v <;> decide

theorem Variant.keyWords_pos (v : Variant) : 0 < v.keyWords := by cases v <;> decide

theorem Variant.rounds_pos (v : Variant) : 0 < v.rounds := by cases v <;> decide

theorem Variant.keyBytes_le (v : Variant) : v.keyBytes ≤ 32 := by cases v <;> decide

theorem Variant.blockBytes_le (v : Variant) : v.blockBytes ≤ 16 := by cases v <;> decide

/-- α as a legal rotation amount of a word (00_scope.md R8). -/
def Variant.alpha (v : Variant) : RotAmount v.wordBits := ⟨v.rotateRight, by cases v <;> decide⟩

/-- β as a legal rotation amount of a word (00_scope.md R8). -/
def Variant.beta (v : Variant) : RotAmount v.wordBits := ⟨v.rotateLeft, by cases v <;> decide⟩

/-- A parameter set given as arguments, not yet checked (00_scope.md R8). -/
structure ParamSet where
  wordBits : Nat
  keyWords : Nat
  rounds : Nat
  rotateLeft : Nat
  rotateRight : Nat
deriving DecidableEq, Repr

/-- The parameter set of a variant (00_scope.md R6). -/
def Variant.params (v : Variant) : ParamSet where
  wordBits := v.wordBits
  keyWords := v.keyWords
  rounds := v.rounds
  rotateLeft := v.rotateLeft
  rotateRight := v.rotateRight

/-- The five variants, in the order of 00_scope.md R2. -/
def Variant.all : List Variant :=
  [.speck64x96, .speck64x128, .speck128x128, .speck128x192, .speck128x256]

/-- The variant of a parameter set; any set outside the five rows is refused (00_scope.md R8, D31). -/
def ParamSet.variant? (p : ParamSet) : Option Variant :=
  Variant.all.find? fun v => v.params == p

/-- The variant of a VARIANT code; any code outside 1 .. 5 is refused (00_scope.md R2, D31). -/
def Variant.ofCode? (c : Nat) : Option Variant :=
  Variant.all.find? fun v => v.code == c

end Sys2Proof
end

