-- ==== Sys2Proof/Machine/Draw.lean ====
section
/-! DEFINITION. Free values drawn a vector, a bit or a word at a time. -/

namespace Sys2Proof.Machine

/-- `len` free values of `w` bits for the elements of register `reg` (00_scope.md R13). -/
def drawVec (event : Nat) (reg : FreeReg) (len w : Nat) : Vector (BitVec w) len :=
  Vector.ofFn fun i => Config.draw event reg i w

/-- One free bit (00_scope.md R13). -/
def drawBit (event : Nat) (reg : FreeReg) : Bool := Config.draw event reg 0 1 == 1#1

end Sys2Proof.Machine
end

