-- ==== Sys2Proof/Syntax.lean ====
section
/-! DEFINITION. The seven commands, the registers of the window, the host's transactions and its program notation. -/

namespace Sys2Proof

/-- The commands: one constructor per row of spec/opcode_table.json (30_encoding.md R71).
No command has an operand field (30_encoding.md R73). `sealCmd` is SEAL and `openCmd` is OPEN
(the bare names are words of Lean). -/
inductive Instr where
  | keyw
  | keyb
  | encw
  | decw
  | sealCmd
  | openCmd
  | clrkey
deriving DecidableEq, Repr

/-- The named registers of the window (10_state.md R30). -/
inductive RegName where
  | id
  | status
  | cmd
  | keyLen
  | blkLen
  | keybuf (i : Fin 8)
  | blkbuf (i : Fin 4)
deriving DecidableEq, Repr

/-- One transaction of the host at the port (20_memory.md R51, 30_encoding.md R80, R82). -/
inductive HostAction where
  /-- `MemRead(offset, 4)`. -/
  | read (offset : Nat)
  /-- `MemWrite(offset, 4, value)`. -/
  | write (offset : Nat) (value : BusWord)
  /-- The loop "repeat RD STATUS until bit 0 of the value read is 0" (30_encoding.md R82). -/
  | poll
  /-- `rst_n` low at a rising clock edge (70_reset_and_hazards.md R230). -/
  | reset
deriving DecidableEq, Repr

/-- `<reg>` of the host notation: a register name or a byte offset (30_encoding.md R80). -/
inductive RegRef where
  | named (r : RegName)
  | offset (b : Nat)
deriving DecidableEq, Repr

/-- One line of a host program for an instance of variant `v` (30_encoding.md R80 to R84). -/
inductive HostLine (v : Variant) where
  /-- `WR <reg>, <imm32>`. -/
  | wr (reg : RegRef) (imm : BusWord)
  /-- `RD <reg>`. -/
  | rd (reg : RegRef)
  /-- `RD <reg> -> <imm32>`: the same access; the program also states the value the rules give. -/
  | rdGives (reg : RegRef) (imm : BusWord)
  /-- A command mnemonic (30_encoding.md R81). -/
  | command (i : Instr)
  /-- `CMD <imm32>` (30_encoding.md R81). -/
  | cmd (imm : BusWord)
  /-- `POLL` (30_encoding.md R82). -/
  | poll
  /-- `POLL -> <imm32>`: the last STATUS value is stated too (30_encoding.md R82). -/
  | pollGives (imm : BusWord)
  /-- `DO <mnemonic>`: the command, then POLL (30_encoding.md R82). -/
  | doCommand (i : Instr)
  /-- `LDKEY <byte string>` (30_encoding.md R83). -/
  | ldkey (bytes : List Byte)
  /-- `LDBLK <byte string>` (30_encoding.md R83). -/
  | ldblk (bytes : List Byte)
  /-- `LDKEYW <w0> <w1> ...` (30_encoding.md R84). -/
  | ldkeyw (words : List (Word v))
  /-- `LDBLKW <w0> <w1>` (30_encoding.md R84). -/
  | ldblkw (w0 w1 : Word v)
deriving DecidableEq, Repr

end Sys2Proof
end

