-- ==== Sys2Proof/Machine/State.lean ====
section
/-! DEFINITION. All the state the spec gives the block, the reasons a step stops, and the state after reset. -/

namespace Sys2Proof.Machine

/-- Why the machine stops with a fault. -/
inductive Fault where
  /-- Raised by `step` at every step but a reset event once FAULT = 1: a protocol violation has happened
  (60_exceptions.md R210, 70_reset_and_hazards.md R236) and the run has no further meaning. Safe (log 9). -/
  | protocolViolation
deriving DecidableEq, Repr

/-- Why the machine refuses. -/
inductive Refusal where
  /-- An instruction without a meaning yet, by its mnemonic; raised by a refused arm of `exec` alone (there is none). Safe. -/
  | notModelled (mnemonic : String)
  /-- A host transaction at an offset that is not a multiple of 4: no access to this block (20_memory.md R53), raised by the
  port (`portTarget`). Safe (log 10). -/
  | misalignedAccess (offset : Nat)
  /-- A host transaction at an offset above 0xFC: no access to this block (20_memory.md R53), raised by the port
  (`portTarget`). Safe (log 10). -/
  | outsideWindow (offset : Nat)
deriving DecidableEq, Repr

/-- The datapath registers of an instance of variant `v` (10_state.md section 2). -/
structure Datapath (v : Variant) where
  /-- X, the x half (R23). -/
  x : Word v
  /-- Y, the y half (R23). -/
  y : Word v
  /-- RC, the round counter (R24). -/
  rc : BitVec 6
  /-- K, the running key (R25). -/
  k : Word v
  /-- L[0 .. NL − 1], the leftover buffer (R25). -/
  l : Vector (Word v) v.leftovers
  /-- RK[0 .. T − 1], the round-key file (R26). -/
  rk : Vector (Word v) v.rounds
deriving DecidableEq, Repr

/-- One value returned by a read of the host (70_reset_and_hazards.md R241). -/
structure ReadValue where
  offset : Nat
  value : BusWord
deriving DecidableEq, Repr

/-- The state of the block, and beside it the host's transactions (10_state.md). -/
structure State where
  /-- VARIANT, a parameter no step changes (R22; log 1). -/
  variant : Variant
  /-- X, Y, RC, K, L, RK (R23 to R26). -/
  dp : Datapath variant
  /-- KEY_VALID (R27). -/
  keyValid : Bool
  /-- BUSY (R28). -/
  busy : Bool
  /-- PEND, the opcode of the pending command (R28). -/
  pend : Byte
  /-- The whole CMD value that was written (R28, R232). -/
  cmdLatch : BusWord
  /-- STATUS.ERR (R32). -/
  err : BitVec 4
  /-- KEY_LEN (R34). -/
  keyLen : BusWord
  /-- BLK_LEN (R35). -/
  blkLen : BusWord
  /-- KEYBUF0 .. KEYBUF7 (R36). -/
  keybuf : Vector BusWord 8
  /-- BLKBUF0 .. BLKBUF3 (R37). -/
  blkbuf : Vector BusWord 4
  /-- FAULT, the spec's model-only bit (R29). -/
  fault : Bool
  /-- The model's own: host transactions still to come before the pending completion (log 5). -/
  lag : Nat
  /-- The model's own: the number of the next free-value event (log 6). -/
  draws : Nat
  /-- The model's own: the host's transactions still to come, in order (R21, R80; log 7). -/
  host : List HostAction
  /-- The model's own: the values read so far, newest first (R241; log 7). -/
  observed : List ReadValue
deriving DecidableEq, Repr

/-- Datapath registers whose every value is the free value drawn at `event`. -/
def Datapath.drawn (v : Variant) (event : Nat) : Datapath v where
  x := Config.draw event .x 0 _
  y := Config.draw event .y 0 _
  rc := Config.draw event .rc 0 6
  k := Config.draw event .k 0 _
  l := drawVec event .l _ _
  rk := drawVec event .rk _ _

/-- The state right after reset of an instance of variant `v` (10_state.md R41), its UNSPECIFIED registers drawn at free-value
event `event` (70_reset_and_hazards.md R230; log 3, log 4), with FAULT = 0 (log 13) and no host transaction (log 7). -/
def State.resetOf (v : Variant) (event : Nat) : State where
  variant := v
  dp := Datapath.drawn v event
  keyValid := false
  busy := false
  pend := Config.draw event .pend 0 8
  cmdLatch := Config.draw event .cmdLatch 0 32
  err := 0
  keyLen := 0
  blkLen := 0
  keybuf := drawVec event .keybuf _ _
  blkbuf := drawVec event .blkbuf _ _
  fault := false
  lag := 0
  draws := event + 1
  host := []
  observed := []

/-- The machine right after reset: an instance with VARIANT = SPECK-128/128 (log 2), its draws being event 0. -/
def State.reset : State := State.resetOf .speck128x128 0

end Sys2Proof.Machine
end

