-- ==== Sys2Proof/Machine/Flags.lean ====
section
/-! DEFINITION. The error codes, the STATUS word and the ID word. The block has no other flags (10_state.md R38). -/

namespace Sys2Proof.Machine

/-- The result codes of a command (60_exceptions.md R201). Codes 4 .. 15 are never produced. -/
inductive ErrCode where
  | ok
  | lenMismatch
  | noKey
  | illegalCmd
deriving DecidableEq, Repr

/-- A code as STATUS.ERR holds it (60_exceptions.md R201). -/
def ErrCode.bits : ErrCode → BitVec 4
  | .ok => 0
  | .lenMismatch => 1
  | .noKey => 2
  | .illegalCmd => 3

/-- STATUS while BUSY = 0: `{24'b0, ERR, 2'b00, KEY_VALID, 1'b0}` (10_state.md R32). -/
def State.idleStatus (s : State) : BusWord :=
  (0 : BitVec 24) ++ s.err ++ (0 : BitVec 2) ++ BitVec.ofBool s.keyValid ++ (0 : BitVec 1)

/-- STATUS read while BUSY = 1 at free-value event `event`: bit 0 is 1, bits [7:1] are free, bits [31:8] are 0
(10_state.md R32, 93_implementation_defined.md U8; log 11). -/
def busyStatus (event : Nat) : BusWord :=
  (0 : BitVec 24) ++ Config.draw event .statusRead 0 7 ++ (1 : BitVec 1)

/-- ID, the constant of the instance (10_state.md R31). -/
def idWord (v : Variant) : BusWord :=
  BitVec.ofNat 4 v.rotateRight ++ BitVec.ofNat 4 v.rotateLeft ++ BitVec.ofNat 8 v.wordBits ++
    BitVec.ofNat 8 v.rounds ++ BitVec.ofNat 4 v.keyWords ++ BitVec.ofNat 4 v.code

end Sys2Proof.Machine
end

