-- ==== Sys2Proof/Machine/WordOps.lean ====
section
/-! DEFINITION. The word operations of 40_word_ops.md: the combinational operators of the datapath. None writes a flag or
raises anything (R38, R208, R109). -/

namespace Sys2Proof.Machine

/-- The number of a little-endian byte string: byte `i` counts `2^(8*i)` (R100). -/
def leNumber : List Byte → Nat
  | [] => 0
  | b :: bs => b.toNat + 256 * leNumber bs

/-- LE_DECODE (R100): exactly as many bytes as the word has. -/
def leDecode {n : Nat} (b : Vector Byte n) : BitVec (8 * n) := BitVec.ofNat (8 * n) (leNumber b.toList)

/-- LE_ENCODE (R101): byte `i` is bits `[8*i+7 : 8*i]`. -/
def leEncode {n : Nat} (w : BitVec (8 * n)) : Vector Byte n := Vector.ofFn fun i => w.extractLsb' (8 * i) 8

/-- ADD_W (R102): addition modulo `2^W`, the carry discarded. -/
def addW {w : Nat} (a b : BitVec w) : BitVec w := a + b

/-- SUB_W (R103): subtraction modulo `2^W`, the borrow discarded. -/
def subW {w : Nat} (a b : BitVec w) : BitVec w := a - b

/-- ROL_W (R104): `((v * 2^n) mod 2^W) OR (v div 2^(W − n))`. -/
def rolW {w : Nat} (v : BitVec w) (n : RotAmount w) : BitVec w := (v <<< n.val) ||| (v >>> (w - n.val))

/-- ROR_W (R105): `(v div 2^n) OR ((v * 2^(W − n)) mod 2^W)`. -/
def rorW {w : Nat} (v : BitVec w) (n : RotAmount w) : BitVec w := (v >>> n.val) ||| (v <<< (w - n.val))

/-- XOR (R106). -/
def xorW {w : Nat} (a b : BitVec w) : BitVec w := a ^^^ b

/-- INDEX_W (R107): the word whose value is the round index. -/
def indexW {w : Nat} (r : Nat) : BitVec w := BitVec.ofNat w r

/-- The default word (R108). -/
def defaultW {w : Nat} : BitVec w := 0

/-- ROUND(x, y, k) for rotation amounts α and β, in the source's order of steps (42_round_transform.md R140). -/
def roundWith {w : Nat} (alpha beta : RotAmount w) (x y k : BitVec w) : BitVec w × BitVec w :=
  let x1 := rorW x alpha
  let x2 := addW x1 y
  let x3 := xorW x2 k
  let y1 := rolW y beta
  let y2 := xorW y1 x3
  (x3, y2)

/-- UNROUND(x, y, k) for rotation amounts α and β, in the source's order of steps (42_round_transform.md R141). -/
def unroundWith {w : Nat} (alpha beta : RotAmount w) (x y k : BitVec w) : BitVec w × BitVec w :=
  let y1 := xorW y x
  let y2 := rorW y1 beta
  let x1 := xorW x k
  let x2 := subW x1 y2
  let x3 := rolW x2 alpha
  (x3, y2)

/-- ROUND of an instance (R140). -/
def speckRound (v : Variant) (x y k : Word v) : Word v × Word v := roundWith v.alpha v.beta x y k

/-- UNROUND of an instance (R141). -/
def speckUnround (v : Variant) (x y k : Word v) : Word v × Word v := unroundWith v.alpha v.beta x y k

end Sys2Proof.Machine
end

