-- ==== Sys2Proof/Machine/Loops.lean ====
section
/-! DEFINITION. The round loops over the datapath registers: KeySchedule, Encrypt and Decrypt
(41_key_schedule.md R120, R121; 43_cipher_commands.md R161, R162). -/

namespace Sys2Proof.Machine

/-- The leftover slot of round `r`: `r mod (M − 1)` (R121 step 2). -/
def slot (v : Variant) (r : Nat) : Fin v.leftovers := ⟨r % v.leftovers, Nat.mod_lt r v.leftovers_pos⟩

/-- The start of the schedule: `K <- w[0]`, `L[j] <- w[j+1]` (R120). -/
def Datapath.loadKeyWords {v : Variant} (w : Vector (Word v) v.keyWords) (d : Datapath v) : Datapath v :=
  { d with
    k := w[0]'(by have := v.keyWords_eq; omega)
    l := Vector.ofFn fun j => w[j.val + 1]'(by have := v.keyWords_eq; omega) }

/-- One pass of the schedule loop at round `r`: emit K as RK[r], then `(L[i], K) <- ROUND(L[i], K, INDEX_W(r))` (R121). -/
def Datapath.scheduleRound {v : Variant} (d : Datapath v) (r : Fin v.rounds) : Datapath v :=
  let i := slot v r
  let p := speckRound v d.l[i] d.k (indexW r)
  { d with
    rc := BitVec.ofNat 6 r
    rk := d.rk.set r d.k
    l := d.l.set i p.1
    k := p.2 }

/-- The first `n` passes of the schedule loop, `for r in 0 .. n − 1` (R121). -/
def Datapath.scheduleLoop {v : Variant} (d : Datapath v) : (n : Nat) → n ≤ v.rounds → Datapath v
  | 0, _ => d
  | n + 1, h => (d.scheduleLoop n (Nat.le_of_succ_le h)).scheduleRound ⟨n, h⟩

/-- KeySchedule(w[0 .. M − 1]) into RK (R120, R121). -/
def Datapath.keySchedule {v : Variant} (w : Vector (Word v) v.keyWords) (d : Datapath v) : Datapath v :=
  (d.loadKeyWords w).scheduleLoop v.rounds (Nat.le_refl _)

/-- `Y <- b0 ; X <- b1` (R161, R162). -/
def Datapath.loadBlock {v : Variant} (b0 b1 : Word v) (d : Datapath v) : Datapath v := { d with y := b0, x := b1 }

/-- `(X, Y) <- ROUND(X, Y, RK[r])` (R161). -/
def Datapath.encryptRound {v : Variant} (d : Datapath v) (r : Fin v.rounds) : Datapath v :=
  let p := speckRound v d.x d.y d.rk[r]
  { d with rc := BitVec.ofNat 6 r, x := p.1, y := p.2 }

/-- `(X, Y) <- UNROUND(X, Y, RK[r])` (R162). -/
def Datapath.decryptRound {v : Variant} (d : Datapath v) (r : Fin v.rounds) : Datapath v :=
  let p := speckUnround v d.x d.y d.rk[r]
  { d with rc := BitVec.ofNat 6 r, x := p.1, y := p.2 }

/-- The encryption rounds `for r in 0 .. n − 1` (R161). -/
def Datapath.encryptLoop {v : Variant} (d : Datapath v) : (n : Nat) → n ≤ v.rounds → Datapath v
  | 0, _ => d
  | n + 1, h => (d.encryptLoop n (Nat.le_of_succ_le h)).encryptRound ⟨n, h⟩

/-- The decryption rounds `for r in n − 1 downto 0` (R162). -/
def Datapath.decryptLoop {v : Variant} (d : Datapath v) : (n : Nat) → n ≤ v.rounds → Datapath v
  | 0, _ => d
  | n + 1, h => (d.decryptRound ⟨n, h⟩).decryptLoop n (Nat.le_of_succ_le h)

/-- Encrypt(b0, b1) on the registers; the result is the pair (Y, X) (R161). -/
def Datapath.encrypt {v : Variant} (b0 b1 : Word v) (d : Datapath v) : Datapath v :=
  (d.loadBlock b0 b1).encryptLoop v.rounds (Nat.le_refl _)

/-- Decrypt(b0, b1) on the registers; the result is the pair (Y, X) (R162). -/
def Datapath.decrypt {v : Variant} (b0 b1 : Word v) (d : Datapath v) : Datapath v :=
  (d.loadBlock b0 b1).decryptLoop v.rounds (Nat.le_refl _)

/-- Datapath registers holding the default word, with a given round-key file: the start from which the functions below
run the loops. -/
def Datapath.ofKeys {v : Variant} (rk : Vector (Word v) v.rounds) : Datapath v where
  x := defaultW
  y := defaultW
  rc := 0
  k := defaultW
  l := Vector.replicate _ defaultW
  rk := rk

/-- KeySchedule as the function of R121: the round keys `RK'[0 .. T − 1]` of the key words. -/
def roundKeys (v : Variant) (w : Vector (Word v) v.keyWords) : Vector (Word v) v.rounds :=
  ((Datapath.ofKeys (Vector.replicate _ defaultW)).keySchedule w).rk

/-- Encrypt as the function of R161: `return (Y, X)`. -/
def encryptWords {v : Variant} (rk : Vector (Word v) v.rounds) (b0 b1 : Word v) : Word v × Word v :=
  let d := (Datapath.ofKeys rk).encrypt b0 b1
  (d.y, d.x)

/-- Decrypt as the function of R162: `return (Y, X)`. -/
def decryptWords {v : Variant} (rk : Vector (Word v) v.rounds) (b0 b1 : Word v) : Word v × Word v :=
  let d := (Datapath.ofKeys rk).decrypt b0 b1
  (d.y, d.x)

end Sys2Proof.Machine
end

