-- ==== Sys2Proof/Machine/Operands.lean ====
section
/-! DEFINITION. The operands of the commands: the byte and word views of KEYBUF and BLKBUF (20_memory.md R56 to R60). -/

namespace Sys2Proof.Machine

/-- Byte `b` of a buffer of 32-bit registers: bits `[8*(b mod 4)+7 : 8*(b mod 4)]` of register `b div 4` (R56, R57). -/
def bufByte {n : Nat} (buf : Vector BusWord n) (b : Nat) (h : b < 4 * n) : Byte :=
  (buf[b / 4]'(by omega)).extractLsb' (8 * (b % 4)) 8

/-- A register with its byte `i` replaced (R59: `BB(b) <- v`). -/
def replaceByte (w : BusWord) (i : Nat) (v : Byte) : BusWord :=
  (w &&& ~~~((0xFF : BusWord) <<< (8 * i))) ||| (v.setWidth 32 <<< (8 * i))

/-- A buffer with byte `b` replaced, every other byte as it was (R59). -/
def setBufByte {n : Nat} (buf : Vector BusWord n) (b : Nat) (h : b < 4 * n) (v : Byte) : Vector BusWord n :=
  buf.set (b / 4) (replaceByte (buf[b / 4]'(by omega)) (b % 4) v) (by omega)

/-- KB(b), the key byte view (R56). -/
def State.kb (s : State) (b : Fin 32) : Byte := bufByte s.keybuf b b.isLt

/-- BB(b), the block byte view (R57). -/
def State.bb (s : State) (b : Fin 16) : Byte := bufByte s.blkbuf b b.isLt

theorem keyByte_lt (v : Variant) (j : Fin v.keyWords) (i : Fin v.wordBytes) : j * v.wordBytes + i < 32 := by
  have h : (j.val + 1) * v.wordBytes ≤ v.keyWords * v.wordBytes := Nat.mul_le_mul_right _ j.isLt
  have := v.keyBytes_le
  have := i.isLt
  rw [Nat.succ_mul] at h
  unfold Variant.keyBytes at *
  omega

theorem blkByte_lt (v : Variant) (j : Fin 2) (i : Fin v.wordBytes) : j * v.wordBytes + i < 16 := by
  have h : (j.val + 1) * v.wordBytes ≤ 2 * v.wordBytes := Nat.mul_le_mul_right _ j.isLt
  have := v.blockBytes_le
  have := i.isLt
  rw [Nat.succ_mul] at h
  unfold Variant.blockBytes at *
  omega

/-- KEYWORD(j): the little-endian decoding of key bytes `j*WB .. j*WB + WB − 1` (R58). -/
def keyWordOf (v : Variant) (buf : Vector BusWord 8) (j : Fin v.keyWords) : Word v :=
  leDecode (Vector.ofFn fun i : Fin v.wordBytes => bufByte buf (j * v.wordBytes + i) (keyByte_lt v j i))

/-- KEYWORD(0 .. M − 1), the operand of KEYW and KEYB (R58, R73). -/
def keyWordsOf (v : Variant) (buf : Vector BusWord 8) : Vector (Word v) v.keyWords :=
  Vector.ofFn (keyWordOf v buf)

/-- BLKWORD(j), read (R59). -/
def blkWordOf (v : Variant) (buf : Vector BusWord 4) (j : Fin 2) : Word v :=
  leDecode (Vector.ofFn fun i : Fin v.wordBytes => bufByte buf (j * v.wordBytes + i) (blkByte_lt v j i))

/-- The first `n` byte writes of `BLKWORD(j) <- w` (R59). -/
def setBlkWordLoop (v : Variant) (j : Fin 2) (w : Word v) (buf : Vector BusWord 4) :
    (n : Nat) → n ≤ v.wordBytes → Vector BusWord 4
  | 0, _ => buf
  | n + 1, h =>
    setBufByte (setBlkWordLoop v j w buf n (Nat.le_of_succ_le h)) (j * v.wordBytes + n) (blkByte_lt v j ⟨n, h⟩)
      ((leEncode w)[n]'h)

/-- `BLKWORD(j) <- w`: `for i in 0 .. WB-1: BB(j*WB + i) <- w[8*i+7 : 8*i]` (R59, the bytes being LE_ENCODE(w)). -/
def setBlkWord (v : Variant) (buf : Vector BusWord 4) (j : Fin 2) (w : Word v) : Vector BusWord 4 :=
  setBlkWordLoop v j w buf v.wordBytes (Nat.le_refl _)

/-- `BLKWORD(0) <- b0 ; BLKWORD(1) <- b1` (43_cipher_commands.md R165). -/
def setBlock (v : Variant) (buf : Vector BusWord 4) (b0 b1 : Word v) : Vector BusWord 4 :=
  setBlkWord v (setBlkWord v buf 0 b0) 1 b1

/-- KEYWORD(0 .. M − 1) of a state. -/
def State.keyWords (s : State) : Vector (Word s.variant) s.variant.keyWords := keyWordsOf s.variant s.keybuf

/-- BLKWORD(j) of a state. -/
def State.blkWord (s : State) (j : Fin 2) : Word s.variant := blkWordOf s.variant s.blkbuf j

end Sys2Proof.Machine
end

