-- ==== Sys2Proof/Machine/Ops.lean ====
section
/-! DEFINITION. The shared operations: ending a command, raising an error, the effects the commands share, issue, reset and the
protocol violation. -/

namespace Sys2Proof.Machine

/-- The outcome type of the model's steps. -/
abbrev Result := Host.Outcome State Fault Refusal

/-- The registers whose values between commands are UNSPECIFIED, drawn at `event`: X, Y, RC, K and L, with RK kept
(10_state.md R23, R24, R25; log 8). -/
def Datapath.forget {v : Variant} (event : Nat) (d : Datapath v) : Datapath v :=
  { Datapath.drawn v event with rk := d.rk }

/-- The end of a command at its completion: `STATUS.ERR <- code`, `BUSY <- 0` (70_reset_and_hazards.md R233). X, Y, RC, K, L, PEND
and the latched CMD value are UNSPECIFIED from here on (10_state.md R23 to R25, R28, 93_implementation_defined.md U7; log 8). -/
def State.endCommand (code : ErrCode) (s : State) : State :=
  { s with
    dp := s.dp.forget s.draws
    busy := false
    pend := Config.draw s.draws .pend 0 8
    cmdLatch := Config.draw s.draws .cmdLatch 0 32
    err := code.bits
    draws := s.draws + 1 }

/-- `raise CmdError(code)`: the command ends with `STATUS.ERR <- code` and no other effect (60_exceptions.md R204). This is the taking
of an exception on this hardware: nothing is saved, no mode changes and nothing is vectored to, so there is no return (R209). -/
def State.raiseCmdError (code : ErrCode) (s : State) : State := s.endCommand code

/-- `STATUS.ERR <- 0 (OK)`, the last line of a command that succeeds. -/
def State.succeed (s : State) : State := s.endCommand .ok

/-- `RK[0 .. T-1] <- KeySchedule(KEYWORD(0), ..., KEYWORD(M-1)) ; KEY_VALID <- 1` (41_key_schedule.md R123, R124). -/
def State.loadKey (s : State) : State := { s with dp := s.dp.keySchedule s.keyWords, keyValid := true }

/-- `RK[r] <- 0 for r in 0 .. T-1 ; KEY_VALID <- 0` (41_key_schedule.md R126). -/
def State.clearKey (s : State) : State :=
  { s with dp := { s.dp with rk := Vector.replicate _ 0 }, keyValid := false }

/-- `(b0, b1) <- Encrypt(BLKWORD(0), BLKWORD(1)) ; BLKWORD(0) <- b0 ; BLKWORD(1) <- b1` (43_cipher_commands.md R165). -/
def State.encryptBlock (s : State) : State :=
  let d := s.dp.encrypt (s.blkWord 0) (s.blkWord 1)
  { s with dp := d, blkbuf := setBlock s.variant s.blkbuf d.y d.x }

/-- `(b0, b1) <- Decrypt(BLKWORD(0), BLKWORD(1)) ; BLKWORD(0) <- b0 ; BLKWORD(1) <- b1` (43_cipher_commands.md R166). -/
def State.decryptBlock (s : State) : State :=
  let d := s.dp.decrypt (s.blkWord 0) (s.blkWord 1)
  { s with dp := d, blkbuf := setBlock s.variant s.blkbuf d.y d.x }

/-- `if KEY_VALID = 0 then raise CmdError(NO_KEY)`, else `go` (60_exceptions.md R203). -/
def State.requireKey (s : State) (go : State) : State := if s.keyValid then go else s.raiseCmdError .noKey

/-- `if BLK_LEN != BLOCK_BYTES then raise CmdError(LEN_MISMATCH)`, else `go`; all 32 bits are compared (60_exceptions.md R202). -/
def State.requireBlockLength (s : State) (go : State) : State :=
  if s.blkLen.toNat = s.variant.blockBytes then go else s.raiseCmdError .lenMismatch

/-- `if KEY_LEN != KEY_BYTES then raise CmdError(LEN_MISMATCH)`, else `go`; all 32 bits are compared (60_exceptions.md R202). -/
def State.requireKeyLength (s : State) (go : State) : State :=
  if s.keyLen.toNat = s.variant.keyBytes then go else s.raiseCmdError .lenMismatch

/-- Issue of CMD value `v`: `BUSY <- 1`, `PEND <- v[7:0]`, `v` latched, nothing else (70_reset_and_hazards.md R232). How many host
transactions come before the completion is free (20_memory.md R63; log 5). -/
def State.issue (v : BusWord) (s : State) : State :=
  { s with
    busy := true
    pend := v.extractLsb' 0 8
    cmdLatch := v
    lag := Config.drawLag s.draws
    draws := s.draws + 1 }

/-- The reset event: the reset state with fresh draws; VARIANT and FAULT stay, and a pending command is abandoned
(70_reset_and_hazards.md R230, R231, 10_state.md R29). The host's own record stays too. -/
def State.applyReset (s : State) : State :=
  { State.resetOf s.variant s.draws with fault := s.fault, host := s.host, observed := s.observed }

/-- The protocol violation: FAULT is set and every register of the block may hold any value
(60_exceptions.md R210, 70_reset_and_hazards.md R236; log 9). -/
def State.violate (s : State) : State :=
  { s with
    dp := Datapath.drawn s.variant s.draws
    keyValid := drawBit s.draws .keyValid
    busy := drawBit s.draws .busy
    pend := Config.draw s.draws .pend 0 8
    cmdLatch := Config.draw s.draws .cmdLatch 0 32
    err := Config.draw s.draws .err 0 4
    keyLen := Config.draw s.draws .keyLen 0 32
    blkLen := Config.draw s.draws .blkLen 0 32
    keybuf := drawVec s.draws .keybuf _ _
    blkbuf := drawVec s.draws .blkbuf _ _
    fault := true
    draws := s.draws + 1 }

end Sys2Proof.Machine
end

