-- ==== Sys2Proof/Machine/CipherCommands.lean ====
section
/-! DEFINITION. The cipher commands: ENCW, DECW, SEAL, OPEN (43_cipher_commands.md). -/

namespace Sys2Proof.Machine

/-- ENCW: encrypt the block, words form; NO_KEY with no key loaded; BLK_LEN is not read (R165). -/
def execEncw (s : State) : Result := .next (s.requireKey s.encryptBlock.succeed)

/-- DECW: decrypt the block, words form; NO_KEY with no key loaded; BLK_LEN is not read (R166). -/
def execDecw (s : State) : Result := .next (s.requireKey s.decryptBlock.succeed)

/-- SEAL: encrypt the block buffer in place; LEN_MISMATCH is checked first, then NO_KEY (R167, 60_exceptions.md R205). -/
def execSeal (s : State) : Result := .next (s.requireBlockLength (s.requireKey s.encryptBlock.succeed))

/-- OPEN: decrypt the block buffer in place; LEN_MISMATCH is checked first, then NO_KEY (R168, 60_exceptions.md R205). -/
def execOpen (s : State) : Result := .next (s.requireBlockLength (s.requireKey s.decryptBlock.succeed))

end Sys2Proof.Machine
end

