-- ==== Sys2Proof/Machine/KeyCommands.lean ====
section
/-! DEFINITION. The key commands: KEYW, KEYB, CLRKEY (41_key_schedule.md). -/

namespace Sys2Proof.Machine

/-- KEYW: load a key from words; KEY_LEN is not read and nothing can fail (R123). -/
def execKeyw (s : State) : Result := .next s.loadKey.succeed

/-- KEYB: load a key from bytes; LEN_MISMATCH when KEY_LEN ≠ KEY_BYTES, before any schedule computation and with no other effect
(R124, R125). -/
def execKeyb (s : State) : Result := .next (s.requireKeyLength s.loadKey.succeed)

/-- CLRKEY: every round key 0 and KEY_VALID 0, with or without a key loaded (R126). -/
def execClrkey (s : State) : Result := .next s.clearKey.succeed

end Sys2Proof.Machine
end

