-- ==== Sys2Proof/Machine/Dispatch.lean ====
section
/-! DEFINITION. The dispatch: one arm per command (30_encoding.md R71). -/

namespace Sys2Proof.Machine

def exec (i : Instr) (s : State) : Host.Outcome State Fault Refusal :=
  match i with
  | .keyw => Sys2Proof.Machine.execKeyw s
  | .keyb => Sys2Proof.Machine.execKeyb s
  | .encw => Sys2Proof.Machine.execEncw s
  | .decw => Sys2Proof.Machine.execDecw s
  | .sealCmd => Sys2Proof.Machine.execSeal s
  | .openCmd => Sys2Proof.Machine.execOpen s
  | .clrkey => Sys2Proof.Machine.execClrkey s

end Sys2Proof.Machine
end

