-- ==== Sys2Proof/WellFormed.lean ====
section
/-! DEFINITION. The checks on what is given from outside: instructions, offsets, host lines, parameter sets. -/

namespace Sys2Proof

/-- Every command is well formed: it has no operand that could be out of range (30_encoding.md R73, R74). The match names each
constructor so that a command added later cannot slip past. -/
def Instr.wf : Instr → Bool
  | .keyw => true
  | .keyb => true
  | .encw => true
  | .decw => true
  | .sealCmd => true
  | .openCmd => true
  | .clrkey => true

/-- A byte offset of the window: a multiple of 4 in `0x00 .. 0xFC` (20_memory.md R52, R53). -/
def offsetWf (b : Nat) : Bool := b % 4 == 0 && b ≤ 0xFC

/-- A transaction that is an access to this block, or no access at all (20_memory.md R53). -/
def HostAction.wf : HostAction → Bool
  | .read b => offsetWf b
  | .write b _ => offsetWf b
  | .poll => true
  | .reset => true

/-- A register reference: any name, or a legal offset (30_encoding.md R80). -/
def RegRef.wf : RegRef → Bool
  | .named _ => true
  | .offset b => offsetWf b

/-- A host line: its offset is legal, LDKEY has at most 32 bytes, LDBLK at most 16 (30_encoding.md R80, R83), and LDKEYW at most
the M words KEYWORD(0 .. M − 1) (30_encoding.md R84). -/
def HostLine.wf {v : Variant} : HostLine v → Bool
  | .wr reg _ => reg.wf
  | .rd reg => reg.wf
  | .rdGives reg _ => reg.wf
  | .command i => i.wf
  | .cmd _ => true
  | .poll => true
  | .pollGives _ => true
  | .doCommand i => i.wf
  | .ldkey bytes => bytes.length ≤ 32
  | .ldblk bytes => bytes.length ≤ 16
  | .ldkeyw words => words.length ≤ v.keyWords
  | .ldblkw _ _ => true

/-- A parameter set obeys the source's invariant: KEY_WORDS ≥ 2, ROUNDS ≥ 1, and both rotations are proper
(00_scope.md R8). -/
def ParamSet.sound (p : ParamSet) : Bool :=
  2 ≤ p.keyWords && 1 ≤ p.rounds &&
    (0 < p.rotateLeft && p.rotateLeft < p.wordBits) && (0 < p.rotateRight && p.rotateRight < p.wordBits)

/-- A parameter set the model admits: one of the five rows (00_scope.md R2, D31). -/
def ParamSet.wf (p : ParamSet) : Bool := p.variant?.isSome

end Sys2Proof
end

