-- ==== Sys2Proof/Decode.lean ====
section
/-! DEFINITION. Decoding a CMD value (total, rejecting by name), the encoder, and the host's entry to the decoder. -/

namespace Sys2Proof

/-- Why a CMD value selects no command (30_encoding.md R72). Each is accepted as a command and completes with ILLEGAL_CMD. -/
inductive DecodeError where
  /-- RSV ≠ 0. -/
  | reservedBitsSet
  /-- RSV = 0 and OP = 0x00. -/
  | opcodeZero
  /-- RSV = 0 and OP in 0x08 .. 0xFF. -/
  | opcodeKeptForFuture
deriving DecidableEq, Repr

/-- OP, bits [7:0] of a CMD value (30_encoding.md R70). -/
def cmdOp (w : BusWord) : Byte := w.extractLsb' 0 8

/-- RSV, bits [31:8] of a CMD value (30_encoding.md R70). -/
def cmdRsv (w : BusWord) : BitVec 24 := w.extractLsb' 8 24

/-- The command of an opcode, or why there is none (30_encoding.md R71, R72). -/
def decodeOp (op : Byte) : Except DecodeError Instr :=
  match op.toNat with
  | 0x00 => .error .opcodeZero
  | 0x01 => .ok .keyw
  | 0x02 => .ok .keyb
  | 0x03 => .ok .encw
  | 0x04 => .ok .decw
  | 0x05 => .ok .sealCmd
  | 0x06 => .ok .openCmd
  | 0x07 => .ok .clrkey
  | _ => .error .opcodeKeptForFuture

/-- The decoder of 30_encoding.md R71: RSV first, then the opcode. The same in every variant (R70). -/
def decode (w : BusWord) : Except DecodeError Instr :=
  if cmdRsv w ≠ 0 then .error .reservedBitsSet else decodeOp (cmdOp w)

/-- The opcode of a command (30_encoding.md R71). -/
def opcode : Instr → Byte
  | .keyw => 0x01
  | .keyb => 0x02
  | .encw => 0x03
  | .decw => 0x04
  | .sealCmd => 0x05
  | .openCmd => 0x06
  | .clrkey => 0x07

/-- The CMD value of a command: RSV = 0 above OP (30_encoding.md R70, R71). -/
def encode (i : Instr) : BusWord := (0 : BitVec 24) ++ opcode i

/-- The instruction the decoder reads from a table word of `nbits` bits: the bits above `nbits` are 0. A command is exactly one
32-bit write (30_encoding.md R70), so the word is the CMD value itself. -/
def decodeTableWord (nbits w : Nat) : Option Instr :=
  (decode (BitVec.ofNat 32 (w % 2 ^ nbits))).toOption

end Sys2Proof
end

