-- ==== Sys2Proof/Machine/Port.lean ====
section
/-! DEFINITION. The register port: the window's map, reads, writes, POLL and the port's signals (20_memory.md, 10_state.md R30). -/

namespace Sys2Proof.Machine

/-- The byte offset of a register (10_state.md R30). -/
def regOffset : RegName → Nat
  | .id => 0x00
  | .status => 0x04
  | .cmd => 0x08
  | .keyLen => 0x0C
  | .blkLen => 0x10
  | .keybuf i => 0x20 + 4 * i
  | .blkbuf i => 0x40 + 4 * i

/-- The register at a word index, `none` where the window is reserved (10_state.md R30). -/
def regAt (a : Nat) : Option RegName :=
  if a = 0 then some .id
  else if a = 1 then some .status
  else if a = 2 then some .cmd
  else if a = 3 then some .keyLen
  else if a = 4 then some .blkLen
  else if h : 8 ≤ a ∧ a < 16 then some (.keybuf ⟨a - 8, by omega⟩)
  else if h : 16 ≤ a ∧ a < 20 then some (.blkbuf ⟨a - 16, by omega⟩)
  else none

/-- What a byte offset names; an offset that is misaligned or outside the window is no access to this block (20_memory.md R52,
R53). -/
def portTarget (offset : Nat) : Except Refusal (Option RegName) :=
  if offset % 4 ≠ 0 then .error (.misalignedAccess offset)
  else if 0xFC < offset then .error (.outsideWindow offset)
  else .ok (regAt (offset / 4))

/-- The bus byte address of an offset (00_scope.md R9). -/
def busAddress (offset : Nat) : Nat := Config.base + offset

/-- The platform's address decode: the offset a bus byte address names, if it reaches the window (20_memory.md R50, R53). -/
def busOffset? (address : Nat) : Option Nat :=
  if Config.base ≤ address ∧ address < Config.base + 256 then some (address - Config.base) else none

/-- The value a read returns while BUSY = 0; a reserved offset and CMD read 0 (20_memory.md R54). -/
def State.readValue (s : State) : Option RegName → BusWord
  | none => 0
  | some .id => idWord s.variant
  | some .status => s.idleStatus
  | some .cmd => 0
  | some .keyLen => s.keyLen
  | some .blkLen => s.blkLen
  | some (.keybuf i) => s.keybuf[i]
  | some (.blkbuf i) => s.blkbuf[i]

/-- The effect of a write while BUSY = 0; ID, STATUS and reserved offsets ignore it (20_memory.md R55). -/
def State.writeRegister (t : Option RegName) (v : BusWord) (s : State) : State :=
  match t with
  | none => s
  | some .id => s
  | some .status => s
  | some .cmd => s.issue v
  | some .keyLen => { s with keyLen := v }
  | some .blkLen => { s with blkLen := v }
  | some (.keybuf i) => { s with keybuf := s.keybuf.set i v }
  | some (.blkbuf i) => { s with blkbuf := s.blkbuf.set i v }

/-- The host receives the value of a read (70_reset_and_hazards.md R241). -/
def State.observe (offset : Nat) (v : BusWord) (s : State) : State :=
  { s with observed := ⟨offset, v⟩ :: s.observed }

/-- One host transaction taken while a command is pending: the completion comes one transaction nearer (log 5). -/
def State.passLag (s : State) : State := { s with lag := s.lag - 1 }

/-- A read of STATUS while BUSY = 1, its free bits drawn (10_state.md R32; log 11). -/
def State.readBusyStatus (s : State) : State :=
  { s.passLag.observe 0x04 (busyStatus s.draws) with draws := s.draws + 1 }

/-- A read that breaks the host protocol: the value returned may be any (60_exceptions.md R210). -/
def State.violatingRead (offset : Nat) (s : State) : State :=
  s.violate.observe offset (Config.draw s.draws .violatingRead 0 32)

/-- A read of one register. While BUSY = 1 only ID and STATUS may be read (70_reset_and_hazards.md R236). -/
def State.hostRead (offset : Nat) (s : State) : Result :=
  match portTarget offset with
  | .error r => .refused r
  | .ok t =>
    if s.busy then
      match t with
      | some .id => .next (s.passLag.observe offset (idWord s.variant))
      | some .status => .next s.readBusyStatus
      | _ => .next (s.violatingRead offset)
    else .next (s.observe offset (s.readValue t))

/-- A write of one register. While BUSY = 1 every write is a protocol violation, reserved offsets included
(70_reset_and_hazards.md R236). -/
def State.hostWrite (offset : Nat) (v : BusWord) (s : State) : Result :=
  match portTarget offset with
  | .error r => .refused r
  | .ok t => if s.busy then .next s.violate else .next (s.writeRegister t v)

/-- One read of POLL's loop: it stays the host's next transaction while the value read has bit 0 = 1 (30_encoding.md R82). -/
def State.hostPoll (s : State) : State :=
  if s.busy then { s.readBusyStatus with host := .poll :: s.host } else s.observe 0x04 s.idleStatus

/-- One host transaction, already taken from the list. -/
def State.hostAct (a : HostAction) (s : State) : Result :=
  match a with
  | .read offset => s.hostRead offset
  | .write offset v => s.hostWrite offset v
  | .poll => .next s.hostPoll
  | .reset => .next s.applyReset

/-- The host's turn: its next transaction, or nothing to do (an idle block holds all its state, 60_exceptions.md R220). -/
def State.hostTurn (s : State) : Result :=
  match s.host with
  | [] => .next s
  | a :: rest => ({ s with host := rest } : State).hostAct a

/-- A step of a run whose FAULT is 1: it has no further meaning, but a reset event still resets the registers, and FAULT stays
(60_exceptions.md R210, 10_state.md R29; log 9). -/
def State.faultedTurn (s : State) : Result :=
  match s.host with
  | .reset :: rest => .next ({ s with host := rest } : State).applyReset
  | _ => .fault .protocolViolation

/-- The input signals of the port in one clock cycle (20_memory.md R51; rdata is the value a read gives). -/
structure PortCycle where
  rstN : Bool
  sel : Bool
  we : Bool
  addr : BitVec 6
  wdata : BusWord
deriving DecidableEq, Repr

/-- The transaction of a clock cycle: reset while `rst_n` is low whatever the other signals, else the access of a selected cycle at
byte offset `4*a` (20_memory.md R51, R52, 70_reset_and_hazards.md R230; log 25). -/
def PortCycle.action (c : PortCycle) : Option HostAction :=
  if c.rstN = false then some .reset
  else if c.sel = false then none
  else if c.we then some (.write (4 * c.addr.toNat) c.wdata)
  else some (.read (4 * c.addr.toNat))

/-- The host's events of a run of clock cycles, one at most for each (20_memory.md R51, R63). -/
def portActions (cs : List PortCycle) : List HostAction := cs.filterMap PortCycle.action

end Sys2Proof.Machine
end

