-- ==== Sys2Proof/Machine/Completion.lean ====
section
/-! DEFINITION. The engine's step: the completion of the pending command (70_reset_and_hazards.md R233). -/

namespace Sys2Proof.Machine

/-- Completion of a command whose latched CMD value is illegal: only STATUS.ERR and BUSY change (60_exceptions.md R207). -/
def State.completeIllegal (s : State) : Result := .next (s.raiseCmdError .illegalCmd)

/-- The completion: decode the latched CMD value and perform the command in one atomic step (70_reset_and_hazards.md R233). -/
def State.complete (s : State) : Result :=
  match decode s.cmdLatch with
  | .ok i => exec i s
  | .error _ => s.completeIllegal

/-- The completion comes next: it is enabled exactly when BUSY = 1 (R233), and its place among the host's transactions is reached, or
the host has none left (R235, R241; log 5, log 18). -/
def State.completionDue (s : State) : Bool := s.busy && (s.lag == 0 || s.host.isEmpty)

end Sys2Proof.Machine
end

