-- ==== Sys2Proof/Machine/Step.lean ====
section
/-! DEFINITION. One step of the block: a completion, a host transaction or a reset event, one event each (20_memory.md R63). -/

namespace Sys2Proof.Machine

/-- One event of the total order of 20_memory.md R63. -/
def step (s : State) : Host.Outcome State Fault Refusal :=
  if s.fault then s.faultedTurn
  else if s.completionDue then s.complete
  else s.hostTurn

/-- `s` with the CMD value `w` (its bits above `nbits` being 0) issued and its completion next: BUSY, PEND and the latched value as an
issue leaves them (70_reset_and_hazards.md R232), and no host transaction before the completion. A command is the block's only
instruction and a completion its only execution of one, so this is where `step` finds it (log 19). -/
def State.withFetchWord (s : State) (nbits w : Nat) : State :=
  { s with
    busy := true
    pend := (BitVec.ofNat 32 (w % 2 ^ nbits)).extractLsb' 0 8
    cmdLatch := BitVec.ofNat 32 (w % 2 ^ nbits)
    lag := 0 }

end Sys2Proof.Machine
end

