-- ==== Sys2Proof/Machine/Atomic.lean ====
section
/-! DEFINITION. The model that performs issue and completion as one atomic step (70_reset_and_hazards.md R238): a second machine on
the same state, to be compared with `step`. -/

namespace Sys2Proof.Machine

/-- One event with a write to CMD completing its command at once: BUSY = 1 is never left behind (R238). -/
def atomicStep (s : State) : Result :=
  match step s with
  | .next t => if t.busy && !t.fault then t.complete else .next t
  | .fault r => .fault r
  | .refused r => .refused r

/-- The atomic machine as the host's interface has machines. -/
def atomicCore : Host.Core := { State := State, Fault := Fault, Refusal := Refusal, step := atomicStep, reset := State.reset }

end Sys2Proof.Machine
end

