-- ==== Sys2Proof/Machine/HostProgram.lean ====
section
/-! DEFINITION. The host program notation and the accesses each line stands for (30_encoding.md R80 to R84). -/

namespace Sys2Proof

open Machine

/-- `offset(reg)` (30_encoding.md R80). -/
def RegRef.byteOffset : RegRef → Nat
  | .named r => regOffset r
  | .offset b => b

/-- Bytes packed into the registers they fill, a final partial register padded with zero bytes (30_encoding.md R83, 20_memory.md
R56). -/
def packBytes : List Byte → List BusWord
  | [] => []
  | [a] => [leDecode #v[a, 0, 0, 0]]
  | [a, b] => [leDecode #v[a, b, 0, 0]]
  | [a, b, c] => [leDecode #v[a, b, c, 0]]
  | a :: b :: c :: d :: rest => leDecode #v[a, b, c, d] :: packBytes rest

/-- The registers of a word, low half first for W = 64 (30_encoding.md R84, 20_memory.md R58, R59). -/
def wordRegs {v : Variant} (w : Word v) : List BusWord :=
  (List.range (v.wordBytes / 4)).map fun i => w.extractLsb' (32 * i) 32

/-- One write each, from `offset` upward. -/
def writesFrom (offset : Nat) : List BusWord → List HostAction
  | [] => []
  | r :: rs => .write offset r :: writesFrom (offset + 4) rs

/-- The CMD write of a mnemonic (30_encoding.md R81). -/
def commandWrite (i : Instr) : HostAction := .write (regOffset .cmd) (encode i)

/-- The accesses a line stands for (30_encoding.md R80 to R84). -/
def HostLine.expand {v : Variant} : HostLine v → List HostAction
  | .wr reg imm => [.write (reg.byteOffset) imm]
  | .rd reg => [.read (reg.byteOffset)]
  | .rdGives reg _ => [.read (reg.byteOffset)]
  | .command i => [commandWrite i]
  | .cmd imm => [.write (regOffset .cmd) imm]
  | .poll => [.poll]
  | .pollGives _ => [.poll]
  | .doCommand i => [commandWrite i, .poll]
  | .ldkey bytes =>
    writesFrom (regOffset (.keybuf 0)) (packBytes bytes) ++
      [.write (regOffset .keyLen) (BitVec.ofNat 32 bytes.length)]
  | .ldblk bytes =>
    writesFrom (regOffset (.blkbuf 0)) (packBytes bytes) ++
      [.write (regOffset .blkLen) (BitVec.ofNat 32 bytes.length)]
  | .ldkeyw words => writesFrom (regOffset (.keybuf 0)) (words.flatMap wordRegs)
  | .ldblkw w0 w1 => writesFrom (regOffset (.blkbuf 0)) (wordRegs w0 ++ wordRegs w1)

/-- The value a line states for its (last) read, if it states one (30_encoding.md R80, R82; log 22). -/
def HostLine.stated? {v : Variant} : HostLine v → Option BusWord
  | .rdGives _ imm => some imm
  | .pollGives imm => some imm
  | _ => none

/-- The accesses of a host program, in order; a program with an ill-formed line is refused (30_encoding.md R80, R83). -/
def assemble? {v : Variant} (p : List (HostLine v)) : Option (List HostAction) :=
  if p.all HostLine.wf then some (p.flatMap HostLine.expand) else none

/-- A state with a host program still to perform (log 7). -/
def Machine.State.withProgram (s : State) (p : List HostAction) : State := { s with host := p }

end Sys2Proof
end

