-- ==== Sys2Proof/Safety.lean ====
section
/-! DEFINITION. What counts as a safe run, the invariants, and the views in which claims compare states. -/

namespace Sys2Proof.Machine

/-- A state of a run that has kept the host protocol: FAULT = 0 (60_exceptions.md R210). A claim about a run says nothing of any
other state. -/
def State.Safe (s : State) : Prop := s.fault = false

/-- The run is over: no access left, BUSY = 0, FAULT = 0 (70_reset_and_hazards.md R241). -/
def State.Finished (s : State) : Prop := s.host = [] ∧ s.busy = false ∧ s.fault = false

/-- RK as a list of numbers, so that states of one variant can be compared field by field. -/
def State.rkNats (s : State) : List Nat := s.dp.rk.toList.map BitVec.toNat

/-- ERR holds a code that is produced (60_exceptions.md R201). -/
def State.ErrProduced (s : State) : Prop := s.err.toNat ≤ 3

/-- PEND is the opcode field of the latched CMD value while BUSY = 1 (70_reset_and_hazards.md R232). -/
def State.PendLatched (s : State) : Prop := s.busy = true → s.pend = cmdOp s.cmdLatch

/-- KEY_VALID = 1 only when RK holds the schedule of some key (10_state.md R27). -/
def State.KeyScheduled (s : State) : Prop :=
  s.keyValid = true → ∃ w : Vector (Word s.variant) s.variant.keyWords, s.dp.rk = roundKeys s.variant w

/-- The invariant of the block while FAULT = 0 (10_state.md R27, R28, R32). -/
def State.Inv (s : State) : Prop :=
  s.fault = false → s.ErrProduced ∧ s.PendLatched ∧ s.KeyScheduled

/-- `t` is `s` at the end of a command with ERR = `code`: BUSY is 0, every register of the window and the block is as in `s` but for
STATUS, and the registers that are UNSPECIFIED between commands (X, Y, RC, K, L, PEND and the latched CMD value) hold any value
(60_exceptions.md R204, 10_state.md R23 to R25, R28). -/
def State.EndsAs (code : BitVec 4) (s t : State) : Prop :=
  ∃ (d : Datapath s.variant) (p : Byte) (c : BusWord) (n : Nat),
    d.rk = s.dp.rk ∧
      t = { s with dp := d, err := code, busy := false, pend := p, cmdLatch := c, draws := n }

/-- KEYB then SEAL from `s` both succeed and leave `cipher` in BLKBUF (43_cipher_commands.md R164). -/
def State.SealsTo (s : State) (cipher : Vector BusWord 4) : Prop :=
  ∃ t u : State, exec .keyb s = .next t ∧ t.err = 0 ∧ exec .sealCmd t = .next u ∧ u.err = 0 ∧ u.blkbuf = cipher

/-- `n` steps of a machine, stopping at the first fault or refusal. -/
def runWith (f : State → Result) : Nat → State → Result
  | 0, s => .next s
  | n + 1, s =>
    match f s with
    | .next t => runWith f n t
    | .fault r => .fault r
    | .refused r => .refused r

/-- A read of STATUS that returned BUSY = 1. -/
def ReadValue.isBusyPoll (r : ReadValue) : Bool := r.offset == 0x04 && r.value.getLsbD 0

/-- A state without what the spec leaves UNSPECIFIED between commands and without the model's own counters: two states with one settled
form agree on every register a host can ever come to see, on RK, and on the values read, but for the STATUS reads that returned
BUSY = 1 (10_state.md R40, 70_reset_and_hazards.md R238, R241). -/
def State.settled (s : State) : State :=
  { s with
    dp := Datapath.ofKeys s.dp.rk
    pend := 0
    cmdLatch := 0
    lag := 0
    draws := 0
    observed := s.observed.filter fun r => !r.isBusyPoll }

/-- A part of a host program that keeps the host protocol: an access that issues nothing, or a CMD write followed by POLL
(70_reset_and_hazards.md R236, 30_encoding.md R82). -/
inductive PoliteStep where
  | read (offset : Nat)
  | write (offset : Nat) (value : BusWord)
  | run (cmd : BusWord)
deriving DecidableEq, Repr

/-- The part names a register access of the window, and its plain writes are not to CMD. -/
def PoliteStep.wf : PoliteStep → Bool
  | .read b => offsetWf b
  | .write b _ => offsetWf b && b != 0x08
  | .run _ => true

/-- The transactions of the part. -/
def PoliteStep.actions : PoliteStep → List HostAction
  | .read b => [.read b]
  | .write b v => [.write b v]
  | .run v => [.write 0x08 v, .poll]

end Sys2Proof.Machine
end

