-- ==== Sys2Proof/Certificates/Slice0/Obligations.lean ====
section
/-! DEFINITION. The statements for the provers. Each docstring names the rule of spec/ it formalises. -/

open Sys2Proof Sys2Proof.Machine

/-! ### Encoding -/

/-- 30_encoding.md R70, R71: the encoder's word decodes to its command, and no other word decodes to it. -/
def Obligations.CommandsAndCmdValuesAgree : Prop :=
  (∀ i : Instr, i.wf = true → decode (encode i) = .ok i) ∧
    ∀ (w : BusWord) (i : Instr), decode w = .ok i → w = encode i

/-- 30_encoding.md R71: the seven CMD values of the table, and nothing else, select a command. -/
def Obligations.CmdValuesOfTheOpcodeMap : Prop :=
  (decode 0x00000001 = .ok .keyw ∧ decode 0x00000002 = .ok .keyb ∧ decode 0x00000003 = .ok .encw ∧
      decode 0x00000004 = .ok .decw ∧ decode 0x00000005 = .ok .sealCmd ∧ decode 0x00000006 = .ok .openCmd ∧
      decode 0x00000007 = .ok .clrkey) ∧
    ∀ w : BusWord, (w.toNat = 0 ∨ 8 ≤ w.toNat) ↔ ∃ e, decode w = .error e

/-- 30_encoding.md R72: an illegal CMD value is issued like any command, sets BUSY, and completes with ERR = ILLEGAL_CMD and no other
effect; and every CMD value is legal or illegal in one of these ways. -/
def Obligations.IllegalCmdValueIsIssuedAndReported : Prop :=
  (∀ (s : State) (w : BusWord), s.busy = false →
      (cmdRsv w ≠ 0 ∨ cmdOp w = 0 ∨ 8 ≤ (cmdOp w).toNat) →
      ∃ t u : State, s.hostWrite 0x08 w = .next t ∧ t.busy = true ∧ t.complete = .next u ∧ State.EndsAs 3 t u) ∧
    ∀ w : BusWord, (∃ i, decode w = .ok i) ∨ (cmdRsv w ≠ 0 ∨ cmdOp w = 0 ∨ 8 ≤ (cmdOp w).toNat)

/-! ### Word operations -/

/-- 40_word_ops.md R100, R101: the two conversions are inverse, byte `i` of an encoded word is its bits `[8*i+7 : 8*i]`, and a decoded
string is the sum of its bytes times `2^(8*i)`. -/
def Obligations.LittleEndianConversions : Prop :=
  (∀ (n : Nat) (w : BitVec (8 * n)), leDecode (leEncode w) = w) ∧
    (∀ (n : Nat) (b : Vector Byte n), leEncode (leDecode b) = b) ∧
    (∀ (n : Nat) (w : BitVec (8 * n)) (i : Fin n), (leEncode w)[i] = w.extractLsb' (8 * i) 8) ∧
    (∀ (n : Nat) (b : Vector Byte n), (leDecode b).toNat = ∑ i : Fin n, b[i].toNat * 2 ^ (8 * i.val)) ∧
    (leDecode (#v[0x00, 0x01, 0x02, 0x03] : Vector Byte 4)).toNat = 0x03020100 ∧
    leEncode (n := 8) 0x0706050403020100 = #v[0x00, 0x01, 0x02, 0x03, 0x04, 0x05, 0x06, 0x07]

/-- 40_word_ops.md R102, R103: addition and subtraction modulo `2^W`, with the corner cases and examples of the rules. -/
def Obligations.AddAndSubtractAreModular : Prop :=
  (∀ (w : Nat) (a b : BitVec w), (addW a b).toNat = (a.toNat + b.toNat) % 2 ^ w) ∧
    (∀ (w : Nat) (a b : BitVec w), ((subW a b).toNat : Int) = ((a.toNat : Int) - (b.toNat : Int)) % 2 ^ w) ∧
    (∀ (w : Nat) (a b : BitVec w), subW (addW a b) b = a) ∧
    (∀ (w : Nat) (a : BitVec w), addW a 0 = a ∧ subW a a = 0) ∧
    (∀ w : Nat, addW (BitVec.allOnes w) 1 = 0 ∧ subW (0 : BitVec w) 1 = BitVec.allOnes w) ∧
    addW (0xFFFFFFFF : BitVec 32) 0x00000002 = 0x00000001 ∧
    subW (0x0000000000000000 : BitVec 64) 0x0000000000000001 = 0xFFFFFFFFFFFFFFFF

/-- 40_word_ops.md R104, R105: the two rotations as numbers and bit by bit, inverse to each other, with the corner cases and examples of
the rules. -/
def Obligations.RotationsMoveBitsAround : Prop :=
  (∀ (w : Nat) (n : RotAmount w) (v : BitVec w),
      (rolW v n).toNat = ((v.toNat * 2 ^ n.val) % 2 ^ w) ||| (v.toNat / 2 ^ (w - n.val)) ∧
        (rorW v n).toNat = (v.toNat / 2 ^ n.val) ||| ((v.toNat * 2 ^ (w - n.val)) % 2 ^ w)) ∧
    (∀ (w : Nat) (n : RotAmount w) (v : BitVec w) (i : Nat), i < w →
      (rolW v n).getLsbD i = v.getLsbD ((i + w - n.val) % w) ∧
        (rorW v n).getLsbD i = v.getLsbD ((i + n.val) % w)) ∧
    (∀ (w : Nat) (n : RotAmount w) (v : BitVec w), rorW (rolW v n) n = v ∧ rolW (rorW v n) n = v) ∧
    (∀ (w : Nat) (n : RotAmount w),
      rolW (0 : BitVec w) n = 0 ∧ rorW (0 : BitVec w) n = 0 ∧
        rolW (BitVec.allOnes w) n = BitVec.allOnes w ∧ rorW (BitVec.allOnes w) n = BitVec.allOnes w) ∧
    rolW (0x80000001 : BitVec 32) ⟨3, by decide⟩ = 0x0000000C ∧
    rorW (0x00000000000000FF : BitVec 64) ⟨8, by decide⟩ = 0xFF00000000000000

/-- 40_word_ops.md R106, R107: exclusive or bit by bit, and the word of a round index. -/
def Obligations.XorAndIndexWords : Prop :=
  (∀ (w : Nat) (a b : BitVec w) (i : Nat), (xorW a b).getLsbD i = (a.getLsbD i ^^ b.getLsbD i)) ∧
    (∀ (w : Nat) (a b : BitVec w), xorW a a = 0 ∧ xorW a 0 = a ∧ xorW (xorW a b) b = a) ∧
    xorW (0x0F0F0F0F : BitVec 32) 0xFFFF0000 = 0xF0F00F0F ∧
    (∀ (v : Variant) (r : Nat), r < v.rounds → (indexW r : Word v).toNat = r) ∧
    (indexW 25 : BitVec 32) = 0x00000019 ∧ (indexW 33 : BitVec 64) = 0x0000000000000021

/-- 42_round_transform.md R140: the closed form of ROUND, its corner cases and its example. -/
def Obligations.RoundClosedForm : Prop :=
  (∀ (v : Variant) (x y k : Word v),
      speckRound v x y k =
        (xorW (addW (rorW x v.alpha) y) k, xorW (rolW y v.beta) (xorW (addW (rorW x v.alpha) y) k))) ∧
    (∀ (v : Variant) (k : Word v), speckRound v 0 0 k = (k, k)) ∧
    (speckRound .speck64x96 0x000000FF 0xFFFFFF01 0).1.toNat = 0xFEFFFF01 ∧
    (speckRound .speck64x96 0x00000000 0x00000001 0x00000000).1.toNat = 0x00000001 ∧
    (speckRound .speck64x96 0x00000000 0x00000001 0x00000000).2.toNat = 0x00000009

/-- 42_round_transform.md R141: the closed form of UNROUND, its corner cases and its example. -/
def Obligations.UnroundClosedForm : Prop :=
  (∀ (v : Variant) (x y k : Word v),
      speckUnround v x y k =
        (rolW (subW (xorW x k) (rorW (xorW y x) v.beta)) v.alpha, rorW (xorW y x) v.beta)) ∧
    (∀ v : Variant, speckUnround v 0 0 0 = (0, 0)) ∧
    (∀ (v : Variant) (x k : Word v), (speckUnround v x x k).2 = 0) ∧
    (speckUnround .speck64x96 0x00000001 0x00000000 0x00000000).1.toNat = 0x000001E0 ∧
    (speckUnround .speck64x96 0x00000001 0x00000000 0x00000000).2.toNat = 0x20000000 ∧
    (speckUnround .speck64x96 0x00000001 0x00000009 0x00000000).1.toNat = 0x00000000 ∧
    (speckUnround .speck64x96 0x00000001 0x00000009 0x00000000).2.toNat = 0x00000001

/-- 42_round_transform.md R142, R143: UNROUND undoes ROUND and ROUND undoes UNROUND, for words of every width and every valid pair of
rotation amounts. -/
def Obligations.RoundAndUnroundAreInverse : Prop :=
  ∀ (w : Nat) (alpha beta : RotAmount w) (x y k : BitVec w),
    unroundWith alpha beta (roundWith alpha beta x y k).1 (roundWith alpha beta x y k).2 k = (x, y) ∧
      roundWith alpha beta (unroundWith alpha beta x y k).1 (unroundWith alpha beta x y k).2 k = (x, y)

/-! ### Key schedule, encryption and decryption -/

/-- 41_key_schedule.md R122: the properties (a) to (e) of the schedule. -/
def Obligations.KeyScheduleProperties : Prop :=
  ∀ (v : Variant) (w : Vector (Word v) v.keyWords),
    (roundKeys v w)[0]'v.rounds_pos = w[0]'v.keyWords_pos ∧
      (∀ d : Datapath v,
        (d.keySchedule w).rk =
          ((d.loadKeyWords w).scheduleLoop (v.rounds - 1) (Nat.sub_le _ _)).rk.set (v.rounds - 1)
            ((d.loadKeyWords w).scheduleLoop (v.rounds - 1) (Nat.sub_le _ _)).k
            (Nat.sub_lt v.rounds_pos Nat.one_pos)) ∧
      (v.keyWords = 2 → ∀ r, (slot v r).val = 0) ∧
      (∃ l : Nat → Word v,
        (∀ (j : Nat) (h : j + 1 < v.keyWords), l j = w[j + 1]) ∧
          ∀ (r : Nat) (h : r < v.rounds),
            l (r + (v.keyWords - 1)) = xorW (addW ((roundKeys v w)[r]) (rorW (l r) v.alpha)) (indexW r) ∧
              ∀ h' : r + 1 < v.rounds,
                (roundKeys v w)[r + 1] = xorW (rolW ((roundKeys v w)[r]) v.beta) (l (r + (v.keyWords - 1)))) ∧
      ∀ d : Datapath v, (d.keySchedule w).rk = roundKeys v w

/-- 43_cipher_commands.md R161: encryption is ROUND with each round key in order on the pair (X, Y) = (b1, b0), whatever the registers
held, and the result is the pair (Y, X). -/
def Obligations.EncryptIsTheRoundsInOrder : Prop :=
  ∀ (v : Variant) (d : Datapath v) (b0 b1 : Word v),
    ((d.encrypt b0 b1).y, (d.encrypt b0 b1).x) = encryptWords d.rk b0 b1 ∧
      encryptWords d.rk b0 b1 =
        ((d.rk.toList.foldl (fun p k => speckRound v p.1 p.2 k) (b1, b0)).2,
          (d.rk.toList.foldl (fun p k => speckRound v p.1 p.2 k) (b1, b0)).1)

/-- 43_cipher_commands.md R162: decryption is UNROUND with each round key in reverse order. -/
def Obligations.DecryptIsTheInverseRoundsInReverse : Prop :=
  ∀ (v : Variant) (d : Datapath v) (b0 b1 : Word v),
    ((d.decrypt b0 b1).y, (d.decrypt b0 b1).x) = decryptWords d.rk b0 b1 ∧
      decryptWords d.rk b0 b1 =
        ((d.rk.toList.reverse.foldl (fun p k => speckUnround v p.1 p.2 k) (b1, b0)).2,
          (d.rk.toList.reverse.foldl (fun p k => speckUnround v p.1 p.2 k) (b1, b0)).1)

/-- 43_cipher_commands.md R163: the round-trip law, both ways, for every round-key file. -/
def Obligations.EncryptAndDecryptAreInverse : Prop :=
  ∀ (v : Variant) (rk : Vector (Word v) v.rounds) (b0 b1 : Word v),
    decryptWords rk (encryptWords rk b0 b1).1 (encryptWords rk b0 b1).2 = (b0, b1) ∧
      encryptWords rk (decryptWords rk b0 b1).1 (decryptWords rk b0 b1).2 = (b0, b1)

/-! ### The buffer views -/

/-- 20_memory.md R56, R57: byte `b` of a buffer is bits `[8*(b mod 4)+7 : 8*(b mod 4)]` of register `b div 4`. -/
def Obligations.BufferByteViews : Prop :=
  ∀ (s : State) (i : Nat), i < 8 →
    (∀ b : Fin 32, (s.kb b).getLsbD i = (s.keybuf[b.val / 4]'(by omega)).getLsbD (8 * (b.val % 4) + i)) ∧
      ∀ b : Fin 16, (s.bb b).getLsbD i = (s.blkbuf[b.val / 4]'(by omega)).getLsbD (8 * (b.val % 4) + i)

/-- 20_memory.md R58: a key word is the sum of its bytes, and its closed form for each word width. -/
def Obligations.KeyWordView : Prop :=
  ∀ (v : Variant) (buf : Vector BusWord 8) (j : Fin v.keyWords),
    (keyWordOf v buf j).toNat =
        ∑ i : Fin v.wordBytes, (bufByte buf (j * v.wordBytes + i) (keyByte_lt v j i)).toNat * 2 ^ (8 * i.val) ∧
      (v.wordBits = 32 →
        (keyWordOf v buf j).toNat = (buf[j.val]'(by have := j.isLt; have := v.keyWords_le; omega)).toNat) ∧
      (v.wordBits = 64 →
        (keyWordOf v buf j).toNat =
          (buf[2 * j.val + 1]'(by have := j.isLt; have := v.keyWords_le; omega)).toNat * 2 ^ 32 +
            (buf[2 * j.val]'(by have := j.isLt; have := v.keyWords_le; omega)).toNat)

/-- 20_memory.md R59: a block word read is the sum of its bytes; a block word written leaves its own bytes as its little-endian bytes and
every other byte of the buffer unchanged, reads back, and leaves the other word unchanged; and the closed form of each for each word
width. -/
def Obligations.BlockWordView : Prop :=
  ∀ (v : Variant) (buf : Vector BusWord 4) (j : Fin 2),
    ((blkWordOf v buf j).toNat =
          ∑ i : Fin v.wordBytes, (bufByte buf (j * v.wordBytes + i) (blkByte_lt v j i)).toNat * 2 ^ (8 * i.val) ∧
        (v.wordBits = 32 → (blkWordOf v buf j).toNat = (buf[j.val]'(by omega)).toNat) ∧
        (v.wordBits = 64 →
          (blkWordOf v buf j).toNat =
            (buf[2 * j.val + 1]'(by omega)).toNat * 2 ^ 32 + (buf[2 * j.val]'(by omega)).toNat)) ∧
      ∀ w : Word v,
        (∀ (b : Nat) (h : b < 4 * 4),
            bufByte (setBlkWord v buf j w) b h =
              if j * v.wordBytes ≤ b ∧ b < (j + 1) * v.wordBytes then w.extractLsb' (8 * (b - j * v.wordBytes)) 8
              else bufByte buf b h) ∧
          (∀ j' : Fin 2, blkWordOf v (setBlkWord v buf j w) j' = if j' = j then w else blkWordOf v buf j') ∧
          (v.wordBits = 32 → setBlkWord v buf j w = buf.set j.val (w.extractLsb' 0 32) (by omega)) ∧
          (v.wordBits = 64 →
            setBlkWord v buf j w =
              (buf.set (2 * j.val) (w.extractLsb' 0 32) (by omega)).set (2 * j.val + 1) (w.extractLsb' 32 32) (by omega))

/-- 20_memory.md R60: a command reads only the variant's own bytes of the buffers (two states that agree on them, and on all else, end
with the same error code, key state and block bytes), and writes only the block bytes. -/
def Obligations.CommandsStayInTheirBytes : Prop :=
  ∀ (i : Instr) (s : State) (kb : Vector BusWord 8) (bb : Vector BusWord 4),
    (∀ (b : Nat) (h : b < 4 * 8), b < s.variant.keyBytes → bufByte kb b h = bufByte s.keybuf b h) →
    (∀ (b : Nat) (h : b < 4 * 4), b < s.variant.blockBytes → bufByte bb b h = bufByte s.blkbuf b h) →
    ∃ t u : State,
      exec i s = .next t ∧ exec i { s with keybuf := kb, blkbuf := bb } = .next u ∧
        u.err = t.err ∧ u.keyValid = t.keyValid ∧ u.rkNats = t.rkNats ∧
        (∀ (b : Nat) (h : b < 4 * 4), b < s.variant.blockBytes → bufByte u.blkbuf b h = bufByte t.blkbuf b h) ∧
        t.keybuf = s.keybuf ∧
        ∀ (b : Nat) (h : b < 4 * 4), s.variant.blockBytes ≤ b → bufByte t.blkbuf b h = bufByte s.blkbuf b h

/-! ### The commands: for each its encoding, every error it raises, its result, and its frame
(`EndsAs` says that nothing but the named fields changes) -/

/-- 41_key_schedule.md R123: the encoding, the effect in every state, and the example. -/
def Obligations.KeywLoadsTheScheduleOfTheKeyWords : Prop :=
  encode .keyw = 0x00000001 ∧
    (∀ s : State, ∃ t : State, exec .keyw s = .next t ∧
      State.EndsAs 0 { s with dp := { s.dp with rk := roundKeys s.variant s.keyWords }, keyValid := true } t) ∧
    let rk := roundKeys .speck64x96 #v[0x03020100, 0x0B0A0908, 0x13121110]
    rk[0].toNat = 0x03020100 ∧ rk[1].toNat = 0x131D0309 ∧ rk[2].toNat = 0xBBD80D53 ∧ rk[25].toNat = 0x2FA7E901

/-- 41_key_schedule.md R124, R125: the encoding, the length check with no other effect, the effect, the lengths and the example. -/
def Obligations.KeybLoadsOrReportsTheLength : Prop :=
  encode .keyb = 0x00000002 ∧
    (∀ s : State, s.keyLen.toNat ≠ s.variant.keyBytes →
      ∃ t : State, exec .keyb s = .next t ∧ State.EndsAs 1 s t) ∧
    (∀ s : State, s.keyLen.toNat = s.variant.keyBytes →
      ∃ t : State, exec .keyb s = .next t ∧ exec .keyw s = .next t ∧
        State.EndsAs 0 { s with dp := { s.dp with rk := roundKeys s.variant s.keyWords }, keyValid := true } t) ∧
    (Variant.speck64x96.keyBytes = 12 ∧ Variant.speck64x128.keyBytes = 16 ∧ Variant.speck128x128.keyBytes = 16 ∧
      Variant.speck128x192.keyBytes = 24 ∧ Variant.speck128x256.keyBytes = 32) ∧
    (roundKeys .speck128x128 #v[0x0706050403020100, 0x0F0E0D0C0B0A0908])[31].toNat = 0x2199C870DB8EC93F

/-- 41_key_schedule.md R126: the encoding, the effect in every state, and the corner case: every cipher command with a correct length then
reports NO_KEY and changes nothing else, until a key is loaded again. The last two clauses are that "until": with KEY_VALID = 0 every
cipher command with a correct length reports NO_KEY, and KEY_VALID rises in no step but the completion of KEYW, or of KEYB with
KEY_LEN = KEY_BYTES. -/
def Obligations.ClrkeyClearsTheRoundKeys : Prop :=
  encode .clrkey = 0x00000007 ∧
    (∀ s : State, ∃ t : State, exec .clrkey s = .next t ∧
      State.EndsAs 0 { s with dp := { s.dp with rk := Vector.replicate _ 0 }, keyValid := false } t) ∧
    (∀ s : State, s.keyValid = false →
      (∃ u : State, exec .encw s = .next u ∧ State.EndsAs 2 s u) ∧
        (∃ u : State, exec .decw s = .next u ∧ State.EndsAs 2 s u) ∧
        (s.blkLen.toNat = s.variant.blockBytes →
          (∃ u : State, exec .sealCmd s = .next u ∧ State.EndsAs 2 s u) ∧
            ∃ u : State, exec .openCmd s = .next u ∧ State.EndsAs 2 s u)) ∧
    ∀ s t : State, step s = .next t → s.fault = false → t.fault = false → s.keyValid = false → t.keyValid = true →
      s.completionDue = true ∧
        (decode s.cmdLatch = .ok .keyw ∨ (decode s.cmdLatch = .ok .keyb ∧ s.keyLen.toNat = s.variant.keyBytes))

/-- 43_cipher_commands.md R165: the encoding, each error, the effect, and the example. -/
def Obligations.EncwEncryptsTheBlock : Prop :=
  encode .encw = 0x00000003 ∧
    (∀ s : State, s.keyValid = false → ∃ t : State, exec .encw s = .next t ∧ State.EndsAs 2 s t) ∧
    (∀ s : State, s.keyValid = true → ∃ t : State, exec .encw s = .next t ∧
      State.EndsAs 0
        { s with
          blkbuf :=
            setBlkWord s.variant
              (setBlkWord s.variant s.blkbuf 0 (encryptWords s.dp.rk (s.blkWord 0) (s.blkWord 1)).1) 1
              (encryptWords s.dp.rk (s.blkWord 0) (s.blkWord 1)).2 } t) ∧
    let b := encryptWords (v := .speck64x96) (roundKeys .speck64x96 #v[0x03020100, 0x0B0A0908, 0x13121110])
      0x736E6165 0x74614620
    b.1.toNat = 0x4175946C ∧ b.2.toNat = 0x9F7952EC

/-- 43_cipher_commands.md R166: the encoding, each error, the effect, and the example. -/
def Obligations.DecwDecryptsTheBlock : Prop :=
  encode .decw = 0x00000004 ∧
    (∀ s : State, s.keyValid = false → ∃ t : State, exec .decw s = .next t ∧ State.EndsAs 2 s t) ∧
    (∀ s : State, s.keyValid = true → ∃ t : State, exec .decw s = .next t ∧
      State.EndsAs 0
        { s with
          blkbuf :=
            setBlkWord s.variant
              (setBlkWord s.variant s.blkbuf 0 (decryptWords s.dp.rk (s.blkWord 0) (s.blkWord 1)).1) 1
              (decryptWords s.dp.rk (s.blkWord 0) (s.blkWord 1)).2 } t) ∧
    let b := decryptWords (v := .speck64x96) (roundKeys .speck64x96 #v[0x03020100, 0x0B0A0908, 0x13121110])
      0x4175946C 0x9F7952EC
    b.1.toNat = 0x736E6165 ∧ b.2.toNat = 0x74614620

/-- 43_cipher_commands.md R167: the encoding, each error, the effect, and the example. -/
def Obligations.SealEncryptsTheBufferOfTheRightLength : Prop :=
  encode .sealCmd = 0x00000005 ∧
    (∀ s : State, s.blkLen.toNat ≠ s.variant.blockBytes →
      ∃ t : State, exec .sealCmd s = .next t ∧ State.EndsAs 1 s t) ∧
    (∀ s : State, s.blkLen.toNat = s.variant.blockBytes → s.keyValid = false →
      ∃ t : State, exec .sealCmd s = .next t ∧ State.EndsAs 2 s t) ∧
    (∀ s : State, s.blkLen.toNat = s.variant.blockBytes → s.keyValid = true →
      ∃ t : State, exec .sealCmd s = .next t ∧ exec .encw s = .next t ∧
        State.EndsAs 0
          { s with
            blkbuf :=
              setBlkWord s.variant
                (setBlkWord s.variant s.blkbuf 0 (encryptWords s.dp.rk (s.blkWord 0) (s.blkWord 1)).1) 1
                (encryptWords s.dp.rk (s.blkWord 0) (s.blkWord 1)).2 } t) ∧
    let b := encryptWords (v := .speck128x128) (roundKeys .speck128x128 #v[0x0706050403020100, 0x0F0E0D0C0B0A0908])
      0x7469206564616D20 0x6C61766975716520
    b.1.toNat = 0x7860FEDF5C570D18 ∧ b.2.toNat = 0xA65D985179783265

/-- 43_cipher_commands.md R168: the encoding, each error, the effect, and the example. -/
def Obligations.OpenDecryptsTheBufferOfTheRightLength : Prop :=
  encode .openCmd = 0x00000006 ∧
    (∀ s : State, s.blkLen.toNat ≠ s.variant.blockBytes →
      ∃ t : State, exec .openCmd s = .next t ∧ State.EndsAs 1 s t) ∧
    (∀ s : State, s.blkLen.toNat = s.variant.blockBytes → s.keyValid = false →
      ∃ t : State, exec .openCmd s = .next t ∧ State.EndsAs 2 s t) ∧
    (∀ s : State, s.blkLen.toNat = s.variant.blockBytes → s.keyValid = true →
      ∃ t : State, exec .openCmd s = .next t ∧ exec .decw s = .next t ∧
        State.EndsAs 0
          { s with
            blkbuf :=
              setBlkWord s.variant
                (setBlkWord s.variant s.blkbuf 0 (decryptWords s.dp.rk (s.blkWord 0) (s.blkWord 1)).1) 1
                (decryptWords s.dp.rk (s.blkWord 0) (s.blkWord 1)).2 } t) ∧
    let b := decryptWords (v := .speck128x128) (roundKeys .speck128x128 #v[0x0706050403020100, 0x0F0E0D0C0B0A0908])
      0x7860FEDF5C570D18 0xA65D985179783265
    b.1.toNat = 0x7469206564616D20 ∧ b.2.toNat = 0x6C61766975716520

/-- 43_cipher_commands.md R168 and R166, the corner cases: SEAL then OPEN, and ENCW then DECW in either order, restore the buffer and
leave every other register as it was. -/
def Obligations.SealThenOpenRestoresTheBuffer : Prop :=
  ∀ s : State, s.keyValid = true →
    (s.blkLen.toNat = s.variant.blockBytes →
      ∃ t u : State, exec .sealCmd s = .next t ∧ exec .openCmd t = .next u ∧ State.EndsAs 0 s u) ∧
    (∃ t u : State, exec .encw s = .next t ∧ exec .decw t = .next u ∧ State.EndsAs 0 s u) ∧
    ∃ t u : State, exec .decw s = .next t ∧ exec .encw t = .next u ∧ State.EndsAs 0 s u

/-- 43_cipher_commands.md R169: the result of a cipher command depends only on the block, on RK and KEY_VALID, and for SEAL and OPEN on
BLK_LEN; and it changes neither RK nor KEY_VALID. -/
def Obligations.CipherResultDependsOnBlockAndKeyOnly : Prop :=
  ∀ (i : Instr), i = .encw ∨ i = .decw ∨ i = .sealCmd ∨ i = .openCmd →
    ∀ (s u : State), u.variant = s.variant → u.rkNats = s.rkNats → u.keyValid = s.keyValid →
      u.blkbuf = s.blkbuf → (i = .sealCmd ∨ i = .openCmd → u.blkLen = s.blkLen) →
      ∃ s' u' : State, exec i s = .next s' ∧ exec i u = .next u' ∧ u'.blkbuf = s'.blkbuf ∧ u'.err = s'.err ∧
        s'.rkNats = s.rkNats ∧ s'.keyValid = s.keyValid

/-- 10_state.md R40 (and R23 to R25): what X, Y, RC, K, L, PEND and the latched CMD value held before a command shows in no register
afterwards. That these registers are drawn afresh at a command's end is the model's reading (log 8). -/
def Obligations.UnspecifiedRegistersNeverShow : Prop :=
  ∀ (i : Instr) (s u : State), u.settled = s.settled →
    ∃ s' u' : State, exec i s = .next s' ∧ exec i u = .next u' ∧ u'.settled = s'.settled

/-- 43_cipher_commands.md R164 with the vectors of 95_test_vectors.md section 2, which the spec itself takes from general knowledge (log
26, PRESUMED): for each variant, from reset with the published key bytes in KEYBUF, the plaintext bytes in BLKBUF and both lengths set, KEYB
then SEAL leaves the published ciphertext, whatever the registers that reset leaves UNSPECIFIED and the unused registers of KEYBUF (`k`) and
of BLKBUF (`b`) hold. -/
def Obligations.PublishedVectorsAreReproduced : Prop :=
  ∀ (e : Nat) (k : Vector BusWord 8) (b : Vector BusWord 4),
    State.SealsTo
        { State.resetOf .speck64x96 e with
          keybuf := #v[0x03020100, 0x0B0A0908, 0x13121110, k[3], k[4], k[5], k[6], k[7]]
          keyLen := 12
          blkbuf := #v[0x736E6165, 0x74614620, b[2], b[3]]
          blkLen := 8 }
        #v[0x4175946C, 0x9F7952EC, b[2], b[3]] ∧
      State.SealsTo
        { State.resetOf .speck64x128 e with
          keybuf := #v[0x03020100, 0x0B0A0908, 0x13121110, 0x1B1A1918, k[4], k[5], k[6], k[7]]
          keyLen := 16
          blkbuf := #v[0x7475432D, 0x3B726574, b[2], b[3]]
          blkLen := 8 }
        #v[0x454E028B, 0x8C6FA548, b[2], b[3]] ∧
      State.SealsTo
        { State.resetOf .speck128x128 e with
          keybuf := #v[0x03020100, 0x07060504, 0x0B0A0908, 0x0F0E0D0C, k[4], k[5], k[6], k[7]]
          keyLen := 16
          blkbuf := #v[0x64616D20, 0x74692065, 0x75716520, 0x6C617669]
          blkLen := 16 }
        #v[0x5C570D18, 0x7860FEDF, 0x79783265, 0xA65D9851] ∧
      State.SealsTo
        { State.resetOf .speck128x192 e with
          keybuf := #v[0x03020100, 0x07060504, 0x0B0A0908, 0x0F0E0D0C, 0x13121110, 0x17161514, k[6], k[7]]
          keyLen := 24
          blkbuf := #v[0x20746E65, 0x43206F74, 0x66656968, 0x72614820]
          blkLen := 16 }
        #v[0xE03C1886, 0xF9BC185D, 0x13135566, 0x1BE4CF3A] ∧
      State.SealsTo
        { State.resetOf .speck128x256 e with
          keybuf := #v[0x03020100, 0x07060504, 0x0B0A0908, 0x0F0E0D0C, 0x13121110, 0x17161514, 0x1B1A1918, 0x1F1E1D1C]
          keyLen := 32
          blkbuf := #v[0x6E6F6F70, 0x202E7265, 0x74206E49, 0x65736F68]
          blkLen := 16 }
        #v[0x9C188F43, 0x4EEEB48D, 0x05C0F53E, 0x41090104]

/-! ### Errors -/

/-- 60_exceptions.md R204: what raising an error does and what it leaves alone; and a command that ends with an error code did nothing but
write it. -/
def Obligations.RaisingAnErrorChangesOnlyErrAndBusy : Prop :=
  (∀ (i : Instr) (s : State), ∃ t : State, exec i s = .next t ∧ (t.err ≠ 0 → State.EndsAs t.err s t)) ∧
  ∀ (code : ErrCode) (s : State),
    State.EndsAs code.bits s (s.raiseCmdError code) ∧
      (s.raiseCmdError code).err = code.bits ∧ (s.raiseCmdError code).busy = false ∧
      (s.raiseCmdError code).rkNats = s.rkNats ∧ (s.raiseCmdError code).keyValid = s.keyValid ∧
      (s.raiseCmdError code).keybuf = s.keybuf ∧ (s.raiseCmdError code).blkbuf = s.blkbuf ∧
      (s.raiseCmdError code).keyLen = s.keyLen ∧ (s.raiseCmdError code).blkLen = s.blkLen

/-- 60_exceptions.md R205: ILLEGAL_CMD comes before LEN_MISMATCH, and LEN_MISMATCH before NO_KEY. -/
def Obligations.ErrorPriority : Prop :=
  (∀ s : State, (∃ e, decode s.cmdLatch = .error e) → ∃ t : State, s.complete = .next t ∧ State.EndsAs 3 s t) ∧
    ∀ s : State, s.blkLen.toNat ≠ s.variant.blockBytes → s.keyValid = false →
      (∃ t : State, exec .sealCmd s = .next t ∧ State.EndsAs 1 s t) ∧
        ∃ t : State, exec .openCmd s = .next t ∧ State.EndsAs 1 s t

/-- 60_exceptions.md R201, R202, R203: which command produces which code, and when. -/
def Obligations.ErrorCodesAndTheirCauses : Prop :=
  ∀ (i : Instr) (s : State), ∃ t : State, exec i s = .next t ∧ t.busy = false ∧
    (t.err = 1 ↔
      (i = .keyb ∧ s.keyLen.toNat ≠ s.variant.keyBytes) ∨
        ((i = .sealCmd ∨ i = .openCmd) ∧ s.blkLen.toNat ≠ s.variant.blockBytes)) ∧
    (t.err = 2 ↔
      s.keyValid = false ∧
        (i = .encw ∨ i = .decw ∨
          ((i = .sealCmd ∨ i = .openCmd) ∧ s.blkLen.toNat = s.variant.blockBytes))) ∧
    t.err ≠ 3 ∧ t.err.toNat ≤ 3

/-! ### ID, STATUS, the window and the port -/

/-- 10_state.md R31: the fields of ID, its five constants, that ID reads as its constant whatever BUSY is, and that a write to it is
ignored. -/
def Obligations.IdRegisterConstants : Prop :=
  (∀ v : Variant,
      (idWord v).extractLsb' 0 4 = BitVec.ofNat 4 v.code ∧ (idWord v).extractLsb' 4 4 = BitVec.ofNat 4 v.keyWords ∧
        (idWord v).extractLsb' 8 8 = BitVec.ofNat 8 v.rounds ∧ (idWord v).extractLsb' 16 8 = BitVec.ofNat 8 v.wordBits ∧
        (idWord v).extractLsb' 24 4 = 3 ∧ (idWord v).extractLsb' 28 4 = 8) ∧
    (idWord .speck64x96 = 0x83201A31 ∧ idWord .speck64x128 = 0x83201B42 ∧ idWord .speck128x128 = 0x83402023 ∧
      idWord .speck128x192 = 0x83402134 ∧ idWord .speck128x256 = 0x83402245) ∧
    (∀ s : State, ∃ l : Nat,
      s.hostRead 0x00 = .next { s with lag := l, observed := ⟨0x00, idWord s.variant⟩ :: s.observed }) ∧
    ∀ (s : State) (w : BusWord), s.busy = false → s.hostWrite 0x00 w = .next s

/-- 10_state.md R32: the value STATUS reads as, while BUSY = 0 and while BUSY = 1, and that a write to it is ignored. That bits [31:8] read
0 while BUSY = 1 is the model's choice (log 11); bits [7:1] are then free. -/
def Obligations.StatusReadValue : Prop :=
  (∀ s : State, s.busy = false →
      ∃ v : BusWord, s.hostRead 0x04 = .next { s with observed := ⟨0x04, v⟩ :: s.observed } ∧
        v.extractLsb' 0 1 = 0 ∧ v.extractLsb' 1 1 = BitVec.ofBool s.keyValid ∧ v.extractLsb' 2 2 = 0 ∧
        v.extractLsb' 4 4 = s.err ∧ v.extractLsb' 8 24 = 0) ∧
    (∀ s : State, s.busy = true →
      ∃ (v : BusWord) (l n : Nat),
        s.hostRead 0x04 = .next { s with observed := ⟨0x04, v⟩ :: s.observed, lag := l, draws := n } ∧
          v.getLsbD 0 = true ∧ v.extractLsb' 8 24 = 0) ∧
    ∀ (s : State) (w : BusWord), s.busy = false → s.hostWrite 0x04 w = .next s

/-- 10_state.md R32, 60_exceptions.md R209: ERR changes only at a completion or a reset; KEY_VALID rises only at the completion of KEYW or of
a KEYB that passes its check, and falls only at the completion of CLRKEY or at a reset. -/
def Obligations.StatusFieldsChangeOnlyAtCompletionOrReset : Prop :=
  ∀ s t : State, step s = .next t → s.fault = false → t.fault = false →
    (t.err ≠ s.err → s.completionDue = true ∨ ∃ rest, s.host = .reset :: rest) ∧
      (s.keyValid = false → t.keyValid = true →
        s.completionDue = true ∧
          (decode s.cmdLatch = .ok .keyw ∨ (decode s.cmdLatch = .ok .keyb ∧ s.keyLen.toNat = s.variant.keyBytes))) ∧
      (s.keyValid = true → t.keyValid = false →
        (s.completionDue = true ∧ decode s.cmdLatch = .ok .clrkey) ∨ ∃ rest, s.host = .reset :: rest)

/-- 10_state.md R30: the map of the window: the offset of each register, each offset names its register and no
other, and the rest of the window is reserved. -/
def Obligations.WindowMap : Prop :=
  (regOffset .id = 0x00 ∧ regOffset .status = 0x04 ∧ regOffset .cmd = 0x08 ∧ regOffset .keyLen = 0x0C ∧
      regOffset .blkLen = 0x10 ∧ (∀ i : Fin 8, regOffset (.keybuf i) = 0x20 + 4 * i.val) ∧
      ∀ i : Fin 4, regOffset (.blkbuf i) = 0x40 + 4 * i.val) ∧
  (∀ r : RegName, regAt (regOffset r / 4) = some r ∧ offsetWf (regOffset r) = true) ∧
    (∀ (a : Nat) (r : RegName), regAt a = some r → regOffset r = 4 * a) ∧
    ∀ a : Nat, a < 64 → (regAt a = none ↔ (5 ≤ a ∧ a ≤ 7) ∨ 20 ≤ a)

/-- 20_memory.md R54: while BUSY = 0 a read changes nothing and returns the value of the register; a second read returns the same. -/
def Obligations.IdleReadsHaveNoSideEffect : Prop :=
  ∀ (s : State) (a : Nat), s.busy = false → a < 64 →
    ∃ (v : BusWord) (t : State),
      s.hostRead (4 * a) = .next t ∧ t = { s with observed := ⟨4 * a, v⟩ :: s.observed } ∧
        t.hostRead (4 * a) = .next { t with observed := ⟨4 * a, v⟩ :: t.observed } ∧
        v =
          if a = 0 then idWord s.variant
          else if a = 1 then s.idleStatus
          else if a = 3 then s.keyLen
          else if a = 4 then s.blkLen
          else if h : 8 ≤ a ∧ a < 16 then s.keybuf[a - 8]'(by omega)
          else if h : 16 ≤ a ∧ a < 20 then s.blkbuf[a - 16]'(by omega)
          else 0

/-- 20_memory.md R55: the exact effect of a write while BUSY = 0; while BUSY = 1 every write is a protocol violation. -/
def Obligations.WritesDoExactlyOneThing : Prop :=
  (∀ (s : State) (a : Nat) (v : BusWord), s.busy = true → a < 64 →
      ∃ t : State, s.hostWrite (4 * a) v = .next t ∧ t.fault = true) ∧
  ∀ (s : State) (a : Nat) (v : BusWord), s.busy = false → a < 64 →
    s.hostWrite (4 * a) v =
      .next
        (if a = 2 then s.issue v
        else if a = 3 then { s with keyLen := v }
        else if a = 4 then { s with blkLen := v }
        else if h : 8 ≤ a ∧ a < 16 then { s with keybuf := s.keybuf.set (a - 8) v (by omega) }
        else if h : 16 ≤ a ∧ a < 20 then { s with blkbuf := s.blkbuf.set (a - 16) v (by omega) }
        else s)

/-- 20_memory.md R53: an offset that is misaligned or outside the window is refused, whatever the state, and the port itself cannot
express one. -/
def Obligations.OnlyWindowOffsetsAreAccesses : Prop :=
  (∀ (s : State) (b : Nat) (v : BusWord), (b % 4 ≠ 0 ∨ 0xFC < b) →
      (∃ r, s.hostRead b = .refused r) ∧ ∃ r, s.hostWrite b v = .refused r) ∧
    ∀ (c : PortCycle) (a : HostAction) (s : State), c.action = some a →
      a.wf = true ∧ ∃ t : State, s.hostAct a = .next t

/-- 20_memory.md R51: the transaction of one clock cycle of the port; that rst_n low overrides the other signals is log 25. -/
def Obligations.PortCycleTransactions : Prop :=
  ∀ c : PortCycle,
    (c.rstN = false → c.action = some .reset) ∧
      (c.rstN = true → c.sel = false → c.action = none) ∧
      (c.rstN = true → c.sel = true → c.we = true → c.action = some (.write (4 * c.addr.toNat) c.wdata)) ∧
      (c.rstN = true → c.sel = true → c.we = false → c.action = some (.read (4 * c.addr.toNat)))

/-! ### Reset, issue, completion and the host protocol -/

/-- 10_state.md R41: the values the spec gives for reset, for every variant; STATUS then reads 0; the reset event leaves the same
values, and FAULT and VARIANT as they were.
That State.reset is SPECK-128/128 is the model's choice (log 2). -/
def Obligations.ResetValues : Prop :=
  (∀ (v : Variant) (e : Nat),
      let s := State.resetOf v e
      s.variant = v ∧ s.busy = false ∧ s.keyValid = false ∧ s.err = 0 ∧ s.keyLen = 0 ∧ s.blkLen = 0 ∧
        s.readValue (some .id) = idWord v ∧ s.readValue (some .status) = 0) ∧
    (State.reset.busy = false ∧ State.reset.keyValid = false ∧ State.reset.err = 0 ∧ State.reset.keyLen = 0 ∧
      State.reset.blkLen = 0 ∧ State.reset.readValue (some .status) = 0) ∧
    ∀ s : State,
      let t := s.applyReset
      t.busy = false ∧ t.keyValid = false ∧ t.err = 0 ∧ t.keyLen = 0 ∧ t.blkLen = 0 ∧ t.fault = s.fault ∧
        t.variant = s.variant ∧ t.readValue (some .id) = idWord s.variant ∧ t.readValue (some .status) = 0

/-- 70_reset_and_hazards.md R230, R231 and 10_state.md R29: a reset event gives the reset state, a pending command is abandoned, and
FAULT is not changed. A completion that is due is taken before the reset event (log 16). -/
def Obligations.ResetEventResets : Prop :=
  ∀ (s : State) (rest : List HostAction), s.host = .reset :: rest → (s.fault = true ∨ s.completionDue = false) →
    ∃ t : State, step s = .next t ∧
      t = { State.resetOf s.variant s.draws with fault := s.fault, host := rest, observed := s.observed } ∧
      t.busy = false ∧ t.keyValid = false ∧ t.err = 0 ∧ t.keyLen = 0 ∧ t.blkLen = 0

/-- 70_reset_and_hazards.md R232: what an issue changes, beside the model's own lag (log 5) and draws (log 6). -/
def Obligations.IssueSetsBusyAndLatchesTheCommand : Prop :=
  ∀ (s : State) (v : BusWord) (rest : List HostAction),
    s.host = .write 0x08 v :: rest → s.busy = false → s.fault = false →
    ∃ l n : Nat,
      step s =
        .next { s with
          busy := true, pend := v.extractLsb' 0 8, cmdLatch := v, host := rest, lag := l, draws := n }

/-- 70_reset_and_hazards.md R233: when the completion comes, a step is the meaning of the command the latched CMD value decodes to, with
BUSY = 0 after it; with an illegal CMD value latched it changes only ERR, whatever KEY_VALID, KEY_LEN and BLK_LEN hold (60_exceptions.md
R207); and so it is through the host's entry `withFetchWord`, from a state whose FAULT is 0. Where the
completion stands among the host's accesses is the model's lag (log 5). -/
def Obligations.StepRunsTheDecodedCommand : Prop :=
  (∀ (s : State) (i : Instr), s.fault = false → s.busy = true → (s.lag = 0 ∨ s.host = []) →
      decode s.cmdLatch = .ok i → step s = exec i s ∧ ∃ t : State, step s = .next t ∧ t.busy = false) ∧
    (∀ (s : State) (e : DecodeError), s.fault = false → s.busy = true → (s.lag = 0 ∨ s.host = []) →
      decode s.cmdLatch = .error e → ∃ t : State, step s = .next t ∧ State.EndsAs 3 s t) ∧
    ∀ (s : State) (nbits w : Nat) (i : Instr), s.fault = false → decodeTableWord nbits w = some i →
      step (s.withFetchWord nbits w) = exec i (s.withFetchWord nbits w)

/-- 70_reset_and_hazards.md R234: BUSY goes to 1 only at an issue and back to 0 only at a completion (or a reset). -/
def Obligations.BusyChangesOnlyAtIssueAndCompletion : Prop :=
  ∀ s t : State, step s = .next t → s.fault = false → t.fault = false →
    (s.busy = false → t.busy = true → ∃ v rest, s.host = .write 0x08 v :: rest) ∧
      (s.busy = true → t.busy = false → s.completionDue = true ∨ ∃ rest, s.host = .reset :: rest)

/-- 70_reset_and_hazards.md R236, 60_exceptions.md R210: while BUSY = 1 the reads of ID and STATUS are no violation, and every other
access of the window sets FAULT. -/
def Obligations.HostProtocolWhileBusy : Prop :=
  ∀ s : State, s.busy = true →
    (∃ t : State, s.hostRead 0x00 = .next t ∧ t.fault = s.fault ∧ t.busy = true) ∧
      (∃ t : State, s.hostRead 0x04 = .next t ∧ t.fault = s.fault ∧ t.busy = true) ∧
      (∀ a : Nat, 2 ≤ a → a < 64 → ∃ t : State, s.hostRead (4 * a) = .next t ∧ t.fault = true) ∧
      ∀ (a : Nat) (v : BusWord), a < 64 → ∃ t : State, s.hostWrite (4 * a) v = .next t ∧ t.fault = true

/-- 10_state.md R29: no step clears FAULT, a reset event included, and a step sets it exactly at a protocol violation: while BUSY = 1, with
no completion first, the host writes, or reads another register than ID and STATUS. -/
def Obligations.FaultIsSetByViolationsAndNeverCleared : Prop :=
  ∀ s t : State, step s = .next t →
    (s.fault = true → t.fault = true) ∧
      (s.fault = false →
        (t.fault = true ↔
          s.busy = true ∧ s.completionDue = false ∧
            ((∃ b w rest, s.host = .write b w :: rest) ∨
              ∃ b rest, b ≠ 0x00 ∧ b ≠ 0x04 ∧ s.host = .read b :: rest)))

/-- 60_exceptions.md R210: a run with FAULT = 1 has no further meaning: every step but a reset event stops with the fault. The form of
the stop is the model's choice (log 9). -/
def Obligations.NoMeaningAfterAProtocolViolation : Prop :=
  ∀ s : State, s.fault = true → (∀ rest, s.host ≠ .reset :: rest) → step s = .fault .protocolViolation

/-- 20_memory.md R66: while a command is pending, no step that keeps the protocol changes its operands or its CMD value, so reading them
at issue or at completion gives the same. -/
def Obligations.PendingOperandsStayAsIssued : Prop :=
  ∀ s t : State, step s = .next t → s.fault = false → t.fault = false → s.busy = true → t.busy = true →
    t.keybuf = s.keybuf ∧ t.blkbuf = s.blkbuf ∧ t.keyLen = s.keyLen ∧ t.blkLen = s.blkLen ∧
      t.keyValid = s.keyValid ∧ t.rkNats = s.rkNats ∧ t.cmdLatch = s.cmdLatch ∧ t.pend = s.pend

/-- 70_reset_and_hazards.md R235: a pending command completes after finitely many steps of a host that only reads ID and STATUS: at most
one more than the transactions still to come before it. The bound is the model's form of fairness (log 18). -/
def Obligations.PendingCommandCompletes : Prop :=
  ∀ s : State, s.busy = true → s.fault = false →
    (∀ a ∈ s.host, a = .read 0x00 ∨ a = .read 0x04 ∨ a = .poll) →
    ∃ (n : Nat) (t : State), n ≤ s.lag + 1 ∧ runWith step n s = .next t ∧ t.busy = false ∧ t.fault = false

/-- 60_exceptions.md R220: an idle block with no access to take holds all its state. That a step with nothing to do exists and answers
the same state is the model's choice (log 21). -/
def Obligations.IdleBlockHoldsItsState : Prop :=
  ∀ s : State, s.busy = false → s.fault = false → s.host = [] → step s = .next s

/-- 41_key_schedule.md R127: RK changes only at the completion of KEYW, of a KEYB that passes its check, and of CLRKEY (a reset leaves it
UNSPECIFIED, 10_state.md R41). -/
def Obligations.RoundKeysChangeOnlyAtKeyCommands : Prop :=
  ∀ s t : State, step s = .next t → s.fault = false → t.fault = false → t.rkNats ≠ s.rkNats →
    (∃ rest, s.host = .reset :: rest) ∨
      (s.completionDue = true ∧
        (decode s.cmdLatch = .ok .keyw ∨
          (decode s.cmdLatch = .ok .keyb ∧ s.keyLen.toNat = s.variant.keyBytes) ∨ decode s.cmdLatch = .ok .clrkey))

/-- 10_state.md R22: VARIANT does not change while the block runs. -/
def Obligations.VariantNeverChanges : Prop :=
  ∀ s t : State, step s = .next t → t.variant = s.variant

/-- 10_state.md R27, R28, R32: every step keeps the invariant: while FAULT = 0, ERR holds a code that is produced, PEND is the opcode of
the latched CMD value while BUSY = 1, and KEY_VALID = 1 only when RK holds the schedule of some key. -/
def Obligations.EveryStepKeepsTheBlockInvariant : Prop :=
  ∀ s t : State, s.Inv → step s = .next t → t.Inv

/-- The invariant of `EveryStepKeepsTheBlockInvariant` holds after reset, for every variant. -/
def Obligations.ResetHasTheBlockInvariant : Prop :=
  State.reset.Inv ∧ ∀ (v : Variant) (e : Nat), (State.resetOf v e).Inv

/-- 70_reset_and_hazards.md R238: for a host that keeps the protocol (each CMD write followed by POLL), the two-step machine and the
machine that completes a command at its CMD write end alike: the same registers, the same RK and the same values read, but for the
STATUS reads that returned BUSY = 1. That a host's POLL is one looping transaction is the model's form (log 18); a
host that also reads ID or STATUS between a CMD write and its POLL is not among the programs here. -/
def Obligations.AtomicModelReadsTheSame : Prop :=
  ∀ (s : State) (p : List PoliteStep), s.busy = false → s.fault = false → (∀ q ∈ p, q.wf = true) →
    s.host = p.flatMap PoliteStep.actions →
    ∃ (n m : Nat) (t u : State),
      runWith step n s = .next t ∧ runWith atomicStep m s = .next u ∧ t.Finished ∧ u.Finished ∧
        t.settled = u.settled

/-! ### Parameters and the host's loads -/

/-- 00_scope.md R8: exactly the five parameter sets of R2 are admitted, each obeys the source's invariant, and every other set and every
other VARIANT code is refused. -/
def Obligations.OnlyTheFiveParameterSets : Prop :=
  (∀ (p : ParamSet) (v : Variant), p.variant? = some v ↔ p = v.params) ∧
    (∀ p : ParamSet, p.wf = true → p.sound = true) ∧
    (∀ (c : Nat) (v : Variant), Variant.ofCode? c = some v ↔ c = v.code) ∧
    ∀ c : Nat, (c = 0 ∨ 6 ≤ c) → Variant.ofCode? c = none

/-- 30_encoding.md R83: on an idle block LDKEY and LDBLK leave the byte string in the buffer, a final partial register padded with zero
bytes, every later byte as it was, and its length in KEY_LEN or BLK_LEN. -/
def Obligations.ByteLoadsFillTheBuffers : Prop :=
  (∀ (s : State) (bytes : List Byte), s.busy = false → s.fault = false → bytes.length ≤ 32 →
      s.host = (HostLine.ldkey bytes : HostLine s.variant).expand →
      ∃ (n : Nat) (kb : Vector BusWord 8),
        runWith step n s =
            .next { s with keybuf := kb, keyLen := BitVec.ofNat 32 bytes.length, host := [] } ∧
          ∀ (b : Nat) (h : b < 4 * 8),
            bufByte kb b h =
              if h' : b < bytes.length then bytes[b]
              else if b / 4 < (bytes.length + 3) / 4 then 0
              else bufByte s.keybuf b h) ∧
    ∀ (s : State) (bytes : List Byte), s.busy = false → s.fault = false → bytes.length ≤ 16 →
      s.host = (HostLine.ldblk bytes : HostLine s.variant).expand →
      ∃ (n : Nat) (bb : Vector BusWord 4),
        runWith step n s =
            .next { s with blkbuf := bb, blkLen := BitVec.ofNat 32 bytes.length, host := [] } ∧
          ∀ (b : Nat) (h : b < 4 * 4),
            bufByte bb b h =
              if h' : b < bytes.length then bytes[b]
              else if b / 4 < (bytes.length + 3) / 4 then 0
              else bufByte s.blkbuf b h

/-- 30_encoding.md R84: on an idle block LDBLKW leaves its two words as BLKWORD(0) and BLKWORD(1), every other register and byte as it
was, with no write to BLK_LEN. -/
def Obligations.WordLoadFillsTheBlock : Prop :=
  ∀ (s : State) (w0 w1 : Word s.variant), s.busy = false → s.fault = false →
    s.host = (HostLine.ldblkw w0 w1 : HostLine s.variant).expand →
    ∃ n : Nat,
      runWith step n s =
        .next { s with blkbuf := setBlkWord s.variant (setBlkWord s.variant s.blkbuf 0 w0) 1 w1, host := [] }
end

