-- ==== Sys2Proof/Laws/State.lean ====
section
/-! SUPPORT. What each shared operation leaves in each field of State, one lemma a field, true by rfl. -/

namespace Sys2Proof.Machine

section EndCommand
variable (c : ErrCode) (s : State)

@[simp] theorem endCommand_variant : (s.endCommand c).variant = s.variant := rfl
@[simp] theorem endCommand_rk : (s.endCommand c).dp.rk = s.dp.rk := rfl
@[simp] theorem endCommand_keyValid : (s.endCommand c).keyValid = s.keyValid := rfl
@[simp] theorem endCommand_busy : (s.endCommand c).busy = false := rfl
@[simp] theorem endCommand_err : (s.endCommand c).err = c.bits := rfl
@[simp] theorem endCommand_keyLen : (s.endCommand c).keyLen = s.keyLen := rfl
@[simp] theorem endCommand_blkLen : (s.endCommand c).blkLen = s.blkLen := rfl
@[simp] theorem endCommand_keybuf : (s.endCommand c).keybuf = s.keybuf := rfl
@[simp] theorem endCommand_blkbuf : (s.endCommand c).blkbuf = s.blkbuf := rfl
@[simp] theorem endCommand_fault : (s.endCommand c).fault = s.fault := rfl
@[simp] theorem endCommand_lag : (s.endCommand c).lag = s.lag := rfl
@[simp] theorem endCommand_draws : (s.endCommand c).draws = s.draws + 1 := rfl
@[simp] theorem endCommand_host : (s.endCommand c).host = s.host := rfl
@[simp] theorem endCommand_observed : (s.endCommand c).observed = s.observed := rfl
@[simp] theorem endCommand_rkNats : (s.endCommand c).rkNats = s.rkNats := rfl

@[simp] theorem raiseCmdError_eq : s.raiseCmdError c = s.endCommand c := rfl
@[simp] theorem succeed_eq : s.succeed = s.endCommand .ok := rfl

end EndCommand

section Effects
variable (s : State)

@[simp] theorem loadKey_variant : s.loadKey.variant = s.variant := rfl
@[simp] theorem loadKey_keyValid : s.loadKey.keyValid = true := rfl
@[simp] theorem loadKey_busy : s.loadKey.busy = s.busy := rfl
@[simp] theorem loadKey_err : s.loadKey.err = s.err := rfl
@[simp] theorem loadKey_keyLen : s.loadKey.keyLen = s.keyLen := rfl
@[simp] theorem loadKey_blkLen : s.loadKey.blkLen = s.blkLen := rfl
@[simp] theorem loadKey_keybuf : s.loadKey.keybuf = s.keybuf := rfl
@[simp] theorem loadKey_blkbuf : s.loadKey.blkbuf = s.blkbuf := rfl
@[simp] theorem loadKey_fault : s.loadKey.fault = s.fault := rfl
@[simp] theorem loadKey_lag : s.loadKey.lag = s.lag := rfl
@[simp] theorem loadKey_draws : s.loadKey.draws = s.draws := rfl
@[simp] theorem loadKey_host : s.loadKey.host = s.host := rfl
@[simp] theorem loadKey_observed : s.loadKey.observed = s.observed := rfl

@[simp] theorem clearKey_variant : s.clearKey.variant = s.variant := rfl
@[simp] theorem clearKey_keyValid : s.clearKey.keyValid = false := rfl
@[simp] theorem clearKey_busy : s.clearKey.busy = s.busy := rfl
@[simp] theorem clearKey_err : s.clearKey.err = s.err := rfl
@[simp] theorem clearKey_keyLen : s.clearKey.keyLen = s.keyLen := rfl
@[simp] theorem clearKey_blkLen : s.clearKey.blkLen = s.blkLen := rfl
@[simp] theorem clearKey_keybuf : s.clearKey.keybuf = s.keybuf := rfl
@[simp] theorem clearKey_blkbuf : s.clearKey.blkbuf = s.blkbuf := rfl
@[simp] theorem clearKey_fault : s.clearKey.fault = s.fault := rfl
@[simp] theorem clearKey_lag : s.clearKey.lag = s.lag := rfl
@[simp] theorem clearKey_draws : s.clearKey.draws = s.draws := rfl
@[simp] theorem clearKey_host : s.clearKey.host = s.host := rfl
@[simp] theorem clearKey_observed : s.clearKey.observed = s.observed := rfl

@[simp] theorem encryptBlock_variant : s.encryptBlock.variant = s.variant := rfl
@[simp] theorem encryptBlock_keyValid : s.encryptBlock.keyValid = s.keyValid := rfl
@[simp] theorem encryptBlock_busy : s.encryptBlock.busy = s.busy := rfl
@[simp] theorem encryptBlock_err : s.encryptBlock.err = s.err := rfl
@[simp] theorem encryptBlock_keyLen : s.encryptBlock.keyLen = s.keyLen := rfl
@[simp] theorem encryptBlock_blkLen : s.encryptBlock.blkLen = s.blkLen := rfl
@[simp] theorem encryptBlock_keybuf : s.encryptBlock.keybuf = s.keybuf := rfl
@[simp] theorem encryptBlock_fault : s.encryptBlock.fault = s.fault := rfl
@[simp] theorem encryptBlock_lag : s.encryptBlock.lag = s.lag := rfl
@[simp] theorem encryptBlock_draws : s.encryptBlock.draws = s.draws := rfl
@[simp] theorem encryptBlock_host : s.encryptBlock.host = s.host := rfl
@[simp] theorem encryptBlock_observed : s.encryptBlock.observed = s.observed := rfl

@[simp] theorem decryptBlock_variant : s.decryptBlock.variant = s.variant := rfl
@[simp] theorem decryptBlock_keyValid : s.decryptBlock.keyValid = s.keyValid := rfl
@[simp] theorem decryptBlock_busy : s.decryptBlock.busy = s.busy := rfl
@[simp] theorem decryptBlock_err : s.decryptBlock.err = s.err := rfl
@[simp] theorem decryptBlock_keyLen : s.decryptBlock.keyLen = s.keyLen := rfl
@[simp] theorem decryptBlock_blkLen : s.decryptBlock.blkLen = s.blkLen := rfl
@[simp] theorem decryptBlock_keybuf : s.decryptBlock.keybuf = s.keybuf := rfl
@[simp] theorem decryptBlock_fault : s.decryptBlock.fault = s.fault := rfl
@[simp] theorem decryptBlock_lag : s.decryptBlock.lag = s.lag := rfl
@[simp] theorem decryptBlock_draws : s.decryptBlock.draws = s.draws := rfl
@[simp] theorem decryptBlock_host : s.decryptBlock.host = s.host := rfl
@[simp] theorem decryptBlock_observed : s.decryptBlock.observed = s.observed := rfl

end Effects

section Issue
variable (v : BusWord) (s : State)

@[simp] theorem issue_variant : (s.issue v).variant = s.variant := rfl
@[simp] theorem issue_dp : (s.issue v).dp = s.dp := rfl
@[simp] theorem issue_keyValid : (s.issue v).keyValid = s.keyValid := rfl
@[simp] theorem issue_busy : (s.issue v).busy = true := rfl
@[simp] theorem issue_pend : (s.issue v).pend = cmdOp v := rfl
@[simp] theorem issue_cmdLatch : (s.issue v).cmdLatch = v := rfl
@[simp] theorem issue_err : (s.issue v).err = s.err := rfl
@[simp] theorem issue_keyLen : (s.issue v).keyLen = s.keyLen := rfl
@[simp] theorem issue_blkLen : (s.issue v).blkLen = s.blkLen := rfl
@[simp] theorem issue_keybuf : (s.issue v).keybuf = s.keybuf := rfl
@[simp] theorem issue_blkbuf : (s.issue v).blkbuf = s.blkbuf := rfl
@[simp] theorem issue_fault : (s.issue v).fault = s.fault := rfl
@[simp] theorem issue_host : (s.issue v).host = s.host := rfl
@[simp] theorem issue_observed : (s.issue v).observed = s.observed := rfl

end Issue

section Events
variable (s : State)

@[simp] theorem applyReset_variant : s.applyReset.variant = s.variant := rfl
@[simp] theorem applyReset_keyValid : s.applyReset.keyValid = false := rfl
@[simp] theorem applyReset_busy : s.applyReset.busy = false := rfl
@[simp] theorem applyReset_err : s.applyReset.err = 0 := rfl
@[simp] theorem applyReset_keyLen : s.applyReset.keyLen = 0 := rfl
@[simp] theorem applyReset_blkLen : s.applyReset.blkLen = 0 := rfl
@[simp] theorem applyReset_fault : s.applyReset.fault = s.fault := rfl
@[simp] theorem applyReset_host : s.applyReset.host = s.host := rfl
@[simp] theorem applyReset_observed : s.applyReset.observed = s.observed := rfl

@[simp] theorem violate_variant : s.violate.variant = s.variant := rfl
@[simp] theorem violate_fault : s.violate.fault = true := rfl
@[simp] theorem violate_host : s.violate.host = s.host := rfl

@[simp] theorem violatingRead_variant (b : Nat) : (s.violatingRead b).variant = s.variant := rfl
@[simp] theorem violatingRead_fault (b : Nat) : (s.violatingRead b).fault = true := rfl

@[simp] theorem readBusyStatus_variant : s.readBusyStatus.variant = s.variant := rfl
@[simp] theorem readBusyStatus_dp : s.readBusyStatus.dp = s.dp := rfl
@[simp] theorem readBusyStatus_busy : s.readBusyStatus.busy = s.busy := rfl
@[simp] theorem readBusyStatus_fault : s.readBusyStatus.fault = s.fault := rfl
@[simp] theorem readBusyStatus_lag : s.readBusyStatus.lag = s.lag - 1 := rfl
@[simp] theorem readBusyStatus_cmdLatch : s.readBusyStatus.cmdLatch = s.cmdLatch := rfl
@[simp] theorem readBusyStatus_host : s.readBusyStatus.host = s.host := rfl

end Events

end Sys2Proof.Machine
end

