-- ==== Sys2Proof/Laws/Buffers.lean ====
section
/-! SUPPORT. Reading one byte of a buffer after writing one byte, and what a word write does to every byte. -/

namespace Sys2Proof.Machine

theorem replaceByte_getLsbD (w : BusWord) (i : Nat) (v : Byte) (k : Nat) (hk : k < 32) :
    (replaceByte w i v).getLsbD k = if 8 * i ≤ k ∧ k < 8 * i + 8 then v.getLsbD (k - 8 * i) else w.getLsbD k := by
  have hff : ∀ j, (0xFF : BusWord).getLsbD j = decide (j < 8) := by
    intro j
    by_cases hj : j < 32
    · exact (by decide : ∀ j < 32, (0xFF : BusWord).getLsbD j = decide (j < 8)) j hj
    · simp [BitVec.getLsbD_of_ge _ _ (Nat.le_of_not_lt hj)]; omega
  simp only [replaceByte, BitVec.getLsbD_or, BitVec.getLsbD_and, BitVec.getLsbD_not, BitVec.getLsbD_shiftLeft, hff,
    BitVec.getLsbD_setWidth, hk, decide_true, Bool.true_and]
  by_cases h1 : k < 8 * i
  · simp [h1, show ¬ (8 * i ≤ k) by omega]
  · by_cases h2 : k < 8 * i + 8
    · simp [h1, show 8 * i ≤ k by omega, h2, show k - 8 * i < 8 by omega, show k - 8 * i < 32 by omega]
    · simp [h1, h2, show ¬ (k - 8 * i < 8) by omega, BitVec.getLsbD_of_ge v (k - 8 * i) (by omega)]

/-- Reading a byte after writing a byte of the same buffer. -/
theorem bufByte_setBufByte {n : Nat} (buf : Vector BusWord n) (b c : Nat) (hb : b < 4 * n) (hc : c < 4 * n) (v : Byte) :
    bufByte (setBufByte buf b hb v) c hc = if c = b then v else bufByte buf c hc := by
  apply BitVec.eq_of_getLsbD_eq
  intro k hk
  simp only [bufByte, setBufByte, BitVec.getLsbD_extractLsb', hk, decide_true, Bool.true_and, Vector.getElem_set]
  by_cases hreg : b / 4 = c / 4
  · rw [if_pos hreg, replaceByte_getLsbD _ _ _ _ (by omega)]
    by_cases hcb : c = b
    · subst hcb
      rw [if_pos ⟨by omega, by omega⟩, if_pos rfl]
      congr 1; omega
    · rw [if_neg (by omega), if_neg hcb]
      simp [hk, hreg]
  · rw [if_neg hreg, if_neg (by rintro rfl; exact hreg rfl)]
    simp [hk]

/-- A byte of a buffer after the first `n` byte writes of a word write. -/
theorem bufByte_setBlkWordLoop (v : Variant) (j : Fin 2) (w : Word v) (buf : Vector BusWord 4) (n : Nat)
    (h : n ≤ v.wordBytes) (b : Nat) (hb : b < 4 * 4) :
    bufByte (setBlkWordLoop v j w buf n h) b hb =
      if j * v.wordBytes ≤ b ∧ b < j * v.wordBytes + n then w.extractLsb' (8 * (b - j * v.wordBytes)) 8
      else bufByte buf b hb := by
  induction n with
  | zero => rw [if_neg (by omega)]; rfl
  | succ n ih =>
    rw [setBlkWordLoop, bufByte_setBufByte, ih]
    by_cases hbn : b = j * v.wordBytes + n
    · subst hbn
      rw [if_pos rfl, if_pos ⟨by omega, by omega⟩]
      simp [leEncode]
    · rw [if_neg hbn]
      by_cases hin : j * v.wordBytes ≤ b ∧ b < j * v.wordBytes + n
      · rw [if_pos hin, if_pos ⟨hin.1, by omega⟩]
      · rw [if_neg hin, if_neg (by omega)]

/-- Two buffers with the same bytes are the same buffer. -/
theorem buf_ext {n : Nat} (a b : Vector BusWord n) (h : ∀ (c : Nat) (hc : c < 4 * n), bufByte a c hc = bufByte b c hc) :
    a = b := by
  apply Vector.ext
  intro i hi
  apply BitVec.eq_of_getLsbD_eq
  intro k hk
  have h1 := congrArg (fun x : Byte => x.getLsbD (k % 8)) (h (4 * i + k / 8) (by omega))
  have e1 : (4 * i + k / 8) / 4 = i := by omega
  have e2 : 8 * (k / 8 % 4) + k % 8 = k := by omega
  simpa [bufByte, BitVec.getLsbD_extractLsb', e1, e2, Nat.mod_lt k (by decide : 0 < 8)] using h1

end Sys2Proof.Machine
end

