-- ==== Sys2Proof/Laws/Loops.lean ====
section
/-! SUPPORT. What the round loops do to the round-key file, and that their results do not depend on stale registers. -/

namespace Sys2Proof.Machine

variable {v : Variant}

@[simp] theorem loadKeyWords_rk (w : Vector (Word v) v.keyWords) (d : Datapath v) : (d.loadKeyWords w).rk = d.rk := rfl
@[simp] theorem loadBlock_rk (b0 b1 : Word v) (d : Datapath v) : (d.loadBlock b0 b1).rk = d.rk := rfl
@[simp] theorem loadBlock_x (b0 b1 : Word v) (d : Datapath v) : (d.loadBlock b0 b1).x = b1 := rfl
@[simp] theorem loadBlock_y (b0 b1 : Word v) (d : Datapath v) : (d.loadBlock b0 b1).y = b0 := rfl
@[simp] theorem ofKeys_rk (rk : Vector (Word v) v.rounds) : (Datapath.ofKeys rk).rk = rk := rfl
@[simp] theorem forget_rk (e : Nat) (d : Datapath v) : (d.forget e).rk = d.rk := rfl
@[simp] theorem encryptRound_rk (d : Datapath v) (r : Fin v.rounds) : (d.encryptRound r).rk = d.rk := rfl
@[simp] theorem decryptRound_rk (d : Datapath v) (r : Fin v.rounds) : (d.decryptRound r).rk = d.rk := rfl

/-- Encryption reads the round keys only (R127). -/
@[simp] theorem encryptLoop_rk (d : Datapath v) (n : Nat) (h : n ≤ v.rounds) : (d.encryptLoop n h).rk = d.rk := by
  induction n with
  | zero => rfl
  | succ n ih => simpa [Datapath.encryptLoop] using ih (Nat.le_of_succ_le h)

/-- Decryption reads the round keys only (R127). -/
@[simp] theorem decryptLoop_rk (d : Datapath v) (n : Nat) (h : n ≤ v.rounds) : (d.decryptLoop n h).rk = d.rk := by
  induction n generalizing d with
  | zero => rfl
  | succ n ih => simpa [Datapath.decryptLoop] using ih (d.decryptRound ⟨n, h⟩) (Nat.le_of_succ_le h)

@[simp] theorem encrypt_rk (b0 b1 : Word v) (d : Datapath v) : (d.encrypt b0 b1).rk = d.rk := by
  simp [Datapath.encrypt]

@[simp] theorem decrypt_rk (b0 b1 : Word v) (d : Datapath v) : (d.decrypt b0 b1).rk = d.rk := by
  simp [Datapath.decrypt]

/-- Two runs of the encryption rounds that agree on X, Y and RK at the start agree on X and Y at the end. -/
theorem encryptLoop_congr (d e : Datapath v) (hx : d.x = e.x) (hy : d.y = e.y) (hk : d.rk = e.rk) (n : Nat)
    (h : n ≤ v.rounds) :
    (d.encryptLoop n h).x = (e.encryptLoop n h).x ∧ (d.encryptLoop n h).y = (e.encryptLoop n h).y := by
  induction n with
  | zero => exact ⟨hx, hy⟩
  | succ n ih =>
    obtain ⟨h1, h2⟩ := ih (Nat.le_of_succ_le h)
    simp [Datapath.encryptLoop, Datapath.encryptRound, h1, h2, hk]

/-- Two runs of the decryption rounds that agree on X, Y and RK at the start agree on X and Y at the end. -/
theorem decryptLoop_congr (d e : Datapath v) (hx : d.x = e.x) (hy : d.y = e.y) (hk : d.rk = e.rk) (n : Nat)
    (h : n ≤ v.rounds) :
    (d.decryptLoop n h).x = (e.decryptLoop n h).x ∧ (d.decryptLoop n h).y = (e.decryptLoop n h).y := by
  induction n generalizing d e with
  | zero => exact ⟨hx, hy⟩
  | succ n ih =>
    apply ih (d.decryptRound ⟨n, h⟩) (e.decryptRound ⟨n, h⟩) <;>
      simp [Datapath.decryptRound, hx, hy, hk]

/-- Two runs of the schedule loop that agree on K and L at the start agree on K and L, and on every round key emitted so far. -/
theorem scheduleLoop_congr (d e : Datapath v) (hk : d.k = e.k) (hl : d.l = e.l) (n : Nat) (h : n ≤ v.rounds) :
    (d.scheduleLoop n h).k = (e.scheduleLoop n h).k ∧ (d.scheduleLoop n h).l = (e.scheduleLoop n h).l ∧
      ∀ (r : Nat) (hr : r < n),
        (d.scheduleLoop n h).rk[r]'(by omega) = (e.scheduleLoop n h).rk[r]'(by omega) := by
  induction n with
  | zero => exact ⟨hk, hl, fun r hr => absurd hr (Nat.not_lt_zero r)⟩
  | succ n ih =>
    obtain ⟨h1, h2, h3⟩ := ih (Nat.le_of_succ_le h)
    refine ⟨by simp [Datapath.scheduleLoop, Datapath.scheduleRound, h1, h2],
      by simp [Datapath.scheduleLoop, Datapath.scheduleRound, h1, h2], fun r hr => ?_⟩
    by_cases hrn : n = r
    · subst hrn
      simp [Datapath.scheduleLoop, Datapath.scheduleRound, h1]
    · have := h3 r (by omega)
      simp [Datapath.scheduleLoop, Datapath.scheduleRound, hrn, this]

end Sys2Proof.Machine
end

