-- ==== Sys2Proof/Laws/PerInstr.lean ====
section
/-! SUPPORT. Statements about every command as syntax, one lemma per constructor. -/

namespace Sys2Proof.Laws

/-- The word of a command has RSV = 0 and an opcode in 0x01 .. 0x07 (30_encoding.md R70, R71). -/
def WordShape.Statement (i : Instr) : Prop :=
  cmdRsv (encode i) = 0 ∧ 1 ≤ (cmdOp (encode i)).toNat ∧ (cmdOp (encode i)).toNat ≤ 7

theorem WordShape.keyw : WordShape.Statement .keyw := by unfold WordShape.Statement; decide
theorem WordShape.keyb : WordShape.Statement .keyb := by unfold WordShape.Statement; decide
theorem WordShape.encw : WordShape.Statement .encw := by unfold WordShape.Statement; decide
theorem WordShape.decw : WordShape.Statement .decw := by unfold WordShape.Statement; decide
theorem WordShape.sealCmd : WordShape.Statement .sealCmd := by unfold WordShape.Statement; decide
theorem WordShape.openCmd : WordShape.Statement .openCmd := by unfold WordShape.Statement; decide
theorem WordShape.clrkey : WordShape.Statement .clrkey := by unfold WordShape.Statement; decide

end Sys2Proof.Laws
end

