-- ==== Sys2Proof/Laws/Port.lean ====
section
/-! SUPPORT. What the port does with a legal offset: one lemma per access. -/

namespace Sys2Proof.Machine

theorem portTarget_word (a : Nat) (h : a < 64) : portTarget (4 * a) = .ok (regAt a) := by
  unfold portTarget
  rw [if_neg (by omega), if_neg (by omega), show 4 * a / 4 = a by omega]

/-- A read while BUSY = 0 changes nothing but the host's own record (20_memory.md R54). -/
theorem hostRead_idle (s : State) (a : Nat) (h : a < 64) (hb : s.busy = false) :
    s.hostRead (4 * a) = .next (s.observe (4 * a) (s.readValue (regAt a))) := by
  simp [State.hostRead, portTarget_word a h, hb]

/-- A write while BUSY = 0 (20_memory.md R55). -/
theorem hostWrite_idle (s : State) (a : Nat) (v : BusWord) (h : a < 64) (hb : s.busy = false) :
    s.hostWrite (4 * a) v = .next (s.writeRegister (regAt a) v) := by
  simp [State.hostWrite, portTarget_word a h, hb]

/-- Every write while BUSY = 1 is a protocol violation (70_reset_and_hazards.md R236). -/
theorem hostWrite_busy (s : State) (a : Nat) (v : BusWord) (h : a < 64) (hb : s.busy = true) :
    s.hostWrite (4 * a) v = .next s.violate := by
  simp [State.hostWrite, portTarget_word a h, hb]

/-- A read of ID while BUSY = 1 (70_reset_and_hazards.md R236). -/
theorem hostRead_busy_id (s : State) (hb : s.busy = true) :
    s.hostRead 0x00 = .next (s.passLag.observe 0x00 (idWord s.variant)) := by
  simp [State.hostRead, portTarget, regAt, hb]

/-- A read of STATUS while BUSY = 1 (70_reset_and_hazards.md R236). -/
theorem hostRead_busy_status (s : State) (hb : s.busy = true) : s.hostRead 0x04 = .next s.readBusyStatus := by
  simp [State.hostRead, portTarget, regAt, hb]

/-- Every other read while BUSY = 1 is a protocol violation (70_reset_and_hazards.md R236). -/
theorem hostRead_busy_other (s : State) (a : Nat) (h2 : 2 ≤ a) (h : a < 64) (hb : s.busy = true) :
    s.hostRead (4 * a) = .next (s.violatingRead (4 * a)) := by
  simp only [State.hostRead, portTarget_word a h, hb, if_true]
  unfold regAt
  rw [if_neg (by omega), if_neg (by omega)]
  split_ifs <;> rfl

/-- Only the word index 2 is CMD (10_state.md R30). -/
theorem regAt_eq_cmd {a : Nat} : regAt a = some .cmd ↔ a = 2 := by
  unfold regAt
  split_ifs <;> simp_all

end Sys2Proof.Machine
end

