-- ==== Sys2Proof/Laws/Step.lean ====
section
/-! SUPPORT. Everything one step can do, said once: for a command, for an access, for a step. -/

namespace Sys2Proof.Machine

/-- The end of a command, on the state its effect leaves, says exactly what `EndsAs` says. -/
theorem endsAs_endCommand (c : ErrCode) (s : State) (d : Datapath s.variant) (hd : d.rk = s.dp.rk) :
    State.EndsAs c.bits s (State.endCommand c { s with dp := d }) := by
  refine ⟨d.forget s.draws, _, _, s.draws + 1, ?_, rfl⟩
  simpa using hd

/-- Every command ends: its effect leaves a state that differs from `s` only in the datapath, KEY_VALID and BLKBUF, and the command ends
there with one of the four codes. -/
theorem exec_ends (i : Instr) (s : State) :
    ∃ (c : ErrCode) (d : Datapath s.variant) (kv : Bool) (bb : Vector BusWord 4),
      exec i s = .next (State.endCommand c { s with dp := d, keyValid := kv, blkbuf := bb }) := by
  cases i <;>
    simp only [exec, execKeyw, execKeyb, execEncw, execDecw, execSeal, execOpen, execClrkey, State.requireKey,
      State.requireKeyLength, State.requireBlockLength, raiseCmdError_eq, succeed_eq] <;>
    (try split_ifs) <;>
    exact ⟨_, _, _, _, rfl⟩

/-- A completion always answers a next state: a command's meaning, or the ILLEGAL_CMD failure (70_reset_and_hazards.md R233). -/
theorem complete_cases {s t : State} (h : s.complete = .next t) :
    (∃ i, decode s.cmdLatch = .ok i ∧ exec i s = .next t) ∨
      (∃ e, decode s.cmdLatch = .error e) ∧ t = s.endCommand .illegalCmd := by
  unfold State.complete at h
  split at h
  · exact .inl ⟨_, ‹_›, h⟩
  · refine .inr ⟨⟨_, ‹_›⟩, ?_⟩
    simpa [State.completeIllegal] using h.symm

/-- What a read can answer. -/
theorem hostRead_cases {s t : State} {b : Nat} (h : s.hostRead b = .next t) :
    (s.busy = false ∧ ∃ v, t = s.observe b v) ∨
      (s.busy = true ∧ (∃ v, t = s.passLag.observe b v)) ∨ (s.busy = true ∧ t = s.readBusyStatus) ∨
        (s.busy = true ∧ t = s.violatingRead b) := by
  unfold State.hostRead at h
  split at h
  · cases h
  · split_ifs at h with hb
    · split at h <;> cases h
      · exact .inr (.inl ⟨hb, _, rfl⟩)
      · exact .inr (.inr (.inl ⟨hb, rfl⟩))
      · exact .inr (.inr (.inr ⟨hb, rfl⟩))
    · cases h
      exact .inl ⟨by simpa using hb, _, rfl⟩

/-- What a write can answer. -/
theorem hostWrite_cases {s t : State} {b : Nat} {v : BusWord} (h : s.hostWrite b v = .next t) :
    (s.busy = true ∧ t = s.violate) ∨ (s.busy = false ∧ b = 0x08 ∧ t = s.issue v) ∨
      (s.busy = false ∧ ∃ (kl bl : BusWord) (kb : Vector BusWord 8) (bb : Vector BusWord 4),
        t = { s with keyLen := kl, blkLen := bl, keybuf := kb, blkbuf := bb }) := by
  unfold State.hostWrite at h
  split at h
  · cases h
  · rename_i r hr
    split_ifs at h with hb
    · cases h; exact .inl ⟨hb, rfl⟩
    · have hb' : s.busy = false := by simpa using hb
      cases h
      unfold portTarget at hr
      split_ifs at hr with h1 h2
      cases hr
      cases hr : regAt (b / 4) with
      | none => exact .inr (.inr ⟨hb', _, _, _, _, rfl⟩)
      | some r =>
        cases r with
        | cmd =>
          have := regAt_eq_cmd.mp hr
          exact .inr (.inl ⟨hb', by omega, rfl⟩)
        | _ => exact .inr (.inr ⟨hb', _, _, _, _, rfl⟩)

/-- Everything a step from a state with FAULT = 0 can do. -/
theorem step_cases {s t : State} (hf : s.fault = false) (h : step s = .next t) :
    (s.completionDue = true ∧ s.complete = .next t) ∨
      (s.completionDue = false ∧ s.host = [] ∧ t = s) ∨
      (s.completionDue = false ∧ ∃ a rest, s.host = a :: rest ∧ ({ s with host := rest } : State).hostAct a = .next t) := by
  unfold step at h
  rw [if_neg (by simp [hf])] at h
  split_ifs at h with hd
  · exact .inl ⟨hd, h⟩
  · have hd' : s.completionDue = false := by simpa using hd
    unfold State.hostTurn at h
    split at h
    · cases h; exact .inr (.inl ⟨hd', ‹_›, rfl⟩)
    · exact .inr (.inr ⟨hd', _, _, ‹_›, h⟩)

/-- Everything a step from a state with FAULT = 1 can do: a reset event. -/
theorem step_faulted {s t : State} (hf : s.fault = true) (h : step s = .next t) :
    ∃ rest, s.host = .reset :: rest ∧ t = ({ s with host := rest } : State).applyReset := by
  unfold step at h
  rw [if_pos hf] at h
  unfold State.faultedTurn at h
  split at h
  · cases h; exact ⟨_, ‹_›, rfl⟩
  · cases h

/-- What a command does to KEY_VALID: KEYW and a KEYB that passes its check set it, CLRKEY clears it, nothing else touches it. -/
theorem exec_keyValid {i : Instr} {s t : State} (h : exec i s = .next t) :
    (t.keyValid = true ∧ (i = .keyw ∨ (i = .keyb ∧ s.keyLen.toNat = s.variant.keyBytes))) ∨
      (t.keyValid = false ∧ i = .clrkey) ∨ t.keyValid = s.keyValid := by
  cases i <;>
    simp only [exec, execKeyw, execKeyb, execEncw, execDecw, execSeal, execOpen, execClrkey, State.requireKey,
      State.requireKeyLength, State.requireBlockLength, raiseCmdError_eq, succeed_eq] at h <;>
    (try split_ifs at h) <;> cases h <;> simp_all

/-- An access that is neither a reset event nor a violation leaves ERR, KEY_VALID and RK. -/
theorem hostAct_keeps {a : HostAction} {s t : State} (h : s.hostAct a = .next t) (hf : t.fault = false) :
    a = .reset ∨ (t.err = s.err ∧ t.keyValid = s.keyValid ∧ t.rkNats = s.rkNats) := by
  cases a with
  | reset => exact .inl rfl
  | poll =>
    simp only [State.hostAct] at h
    cases h
    unfold State.hostPoll
    split_ifs <;> exact .inr ⟨rfl, rfl, rfl⟩
  | read b =>
    rcases hostRead_cases h with ⟨_, v, rfl⟩ | ⟨_, v, rfl⟩ | ⟨_, rfl⟩ | ⟨_, rfl⟩
    · exact .inr ⟨rfl, rfl, rfl⟩
    · exact .inr ⟨rfl, rfl, rfl⟩
    · exact .inr ⟨rfl, rfl, rfl⟩
    · simp at hf
  | write b v =>
    rcases hostWrite_cases h with ⟨_, rfl⟩ | ⟨_, _, rfl⟩ | ⟨_, _, _, _, _, rfl⟩
    · simp at hf
    · exact .inr ⟨rfl, rfl, rfl⟩
    · exact .inr ⟨rfl, rfl, rfl⟩

end Sys2Proof.Machine
end

