-- ==== Sys2Proof/Tests/Slice0.lean ====
section
/-! SUPPORT. The model's own tests: ill-formed terms refused, words decoded, single steps with results from the spec's tables
(95_test_vectors.md), and for every statement with hypotheses a state and operands that meet them. -/

namespace Sys2Proof.Tests

open Sys2Proof Sys2Proof.Machine

/-! ### Small states -/

/-- An idle block of variant `v` with every register 0. -/
def zeroState (v : Variant) : State where
  variant := v
  dp := Datapath.ofKeys (Vector.replicate _ 0)
  keyValid := false
  busy := false
  pend := 0
  cmdLatch := 0
  err := 0
  keyLen := 0
  blkLen := 0
  keybuf := Vector.replicate _ 0
  blkbuf := Vector.replicate _ 0
  fault := false
  lag := 0
  draws := 0
  host := []
  observed := []

/-- The published keys of 95_test_vectors.md section 2 as KEYBUF, the variants with W = 32. -/
def key32 : Vector BusWord 8 := #v[0x03020100, 0x0B0A0908, 0x13121110, 0x1B1A1918, 0, 0, 0, 0]

/-- The published keys of 95_test_vectors.md section 2 as KEYBUF, the variants with W = 64. -/
def key64 : Vector BusWord 8 :=
  #v[0x03020100, 0x07060504, 0x0B0A0908, 0x0F0E0D0C, 0x13121110, 0x17161514, 0x1B1A1918, 0x1F1E1D1C]

/-- A block of variant `v` with the published key loaded, `blk` in BLKBUF and `len` in BLK_LEN. -/
def keyed (v : Variant) (blk : Vector BusWord 4) (len : BusWord) : State :=
  let s := { zeroState v with keybuf := if v.wordBytes = 4 then key32 else key64, blkbuf := blk, blkLen := len }
  s.loadKey

/-- STATUS and BLKBUF of a next state. -/
def statusAndBlock : Result → Option (BusWord × List BusWord)
  | .next t => some (t.readValue (some .status), t.blkbuf.toList)
  | _ => none

/-- STATUS and round key `r` of a next state, as numbers. -/
def statusAndKey (r : Nat) : Result → Option (Nat × Nat)
  | .next t => some ((t.readValue (some .status)).toNat, t.rkNats[r]?.getD 0)
  | _ => none

/-! ### WellFormed refuses -/

theorem test_offset_misaligned : offsetWf 0x06 = false := by decide
theorem test_offset_outside : offsetWf 0x100 = false ∧ offsetWf 0xFC = true := by decide
theorem test_read_ill_formed : (HostAction.read 0x41).wf = false := by decide
theorem test_write_ill_formed : (HostAction.write 0x100 0).wf = false := by decide
theorem test_reg_ill_formed : (RegRef.offset 0x22).wf = false := by decide
theorem test_line_ill_formed :
    (HostLine.wr (.offset 3) 0 : HostLine .speck64x96).wf = false ∧ (HostLine.rd (.offset 0x200) : HostLine .speck64x96).wf = false ∧
      (HostLine.rdGives (.offset 1) 0 : HostLine .speck64x96).wf = false := by decide
theorem test_ldkey_too_long : (HostLine.ldkey (List.replicate 33 0) : HostLine .speck128x256).wf = false := by decide
theorem test_ldblk_too_long : (HostLine.ldblk (List.replicate 17 0) : HostLine .speck128x256).wf = false := by decide
theorem test_ldkeyw_too_many : (HostLine.ldkeyw [1, 2, 3, 4] : HostLine .speck64x96).wf = false := by decide
theorem test_program_refused : assemble? [(HostLine.poll : HostLine .speck64x96), .rd (.offset 2)] = none := by decide
theorem test_params_unsound :
    (ParamSet.mk 32 1 26 3 8).sound = false ∧ (ParamSet.mk 32 3 0 3 8).sound = false ∧ (ParamSet.mk 32 3 26 0 8).sound = false ∧
      (ParamSet.mk 32 3 26 3 32).sound = false := by decide
/-- SPECK-32/64 of the family is outside the five rows of 00_scope.md R2. -/
theorem test_params_refused : (ParamSet.mk 16 4 22 2 7).wf = false ∧ (ParamSet.mk 16 4 22 2 7).sound = true := by decide
theorem test_variant_code_refused : Variant.ofCode? 0 = none ∧ Variant.ofCode? 6 = none := by decide
theorem test_commands_well_formed : (∀ i ∈ [Instr.keyw, .keyb, .encw, .decw, .sealCmd, .openCmd, .clrkey], i.wf = true) := by decide

/-! ### Decoding, from words written out bit by bit: RSV (24 bits) then OP (8 bits), 30_encoding.md R70, R71 -/

theorem test_decode_keyw : decode 0b000000000000000000000000_00000001 = .ok .keyw := by decide
theorem test_decode_keyb : decode 0b000000000000000000000000_00000010 = .ok .keyb := by decide
theorem test_decode_encw : decode 0b000000000000000000000000_00000011 = .ok .encw := by decide
theorem test_decode_decw : decode 0b000000000000000000000000_00000100 = .ok .decw := by decide
theorem test_decode_seal : decode 0b000000000000000000000000_00000101 = .ok .sealCmd := by decide
theorem test_decode_open : decode 0b000000000000000000000000_00000110 = .ok .openCmd := by decide
theorem test_decode_clrkey : decode 0b000000000000000000000000_00000111 = .ok .clrkey := by decide
/-- 95_test_vectors.md E15 to E19. -/
theorem test_decode_illegal :
    decode 0x00000000 = .error .opcodeZero ∧ decode 0x00000008 = .error .opcodeKeptForFuture ∧
      decode 0x000000FF = .error .opcodeKeptForFuture ∧ decode 0x00000103 = .error .reservedBitsSet ∧
      decode 0x80000005 = .error .reservedBitsSet := by decide
theorem test_decode_table_word : decodeTableWord 32 0x00000006 = some .openCmd ∧ decodeTableWord 32 0x00000108 = none := by decide

/-! ### Word operations, 95_test_vectors.md sections 3 and 4 -/

theorem test_le_decode :
    (leDecode #v[0xF0, 0xDE, 0xBC, 0x9A, 0x78, 0x56, 0x34, 0x12] : BitVec 64) = 0x123456789ABCDEF0 := by decide
theorem test_le_encode : leEncode (n := 4) 0x80000001 = #v[0x01, 0x00, 0x00, 0x80] := by decide
theorem test_add : addW (0xFFFFFFFFFFFFFFFF : BitVec 64) 0xFFFFFFFFFFFFFFFF = 0xFFFFFFFFFFFFFFFE := by decide
theorem test_sub : subW (0x00000000 : BitVec 32) 0x00000001 = 0xFFFFFFFF := by decide
theorem test_rol :
    rolW (0xE0000000 : BitVec 32) ⟨3, by decide⟩ = 0x00000007 ∧ rolW (0x12345678 : BitVec 32) ⟨8, by decide⟩ = 0x34567812 := by
  decide
theorem test_ror :
    rorW (0x00000007 : BitVec 32) ⟨3, by decide⟩ = 0xE0000000 ∧
      rorW (0x0123456789ABCDEF : BitVec 64) ⟨8, by decide⟩ = 0xEF0123456789ABCD := by decide
theorem test_round32 :
    speckRound .speck64x128 0x12345678 0x9ABCDEF0 0x0F1E2D3C = ((0x1DD13E7A, 0xC837C9FE) : BitVec 32 × BitVec 32) := by decide
theorem test_round64 :
    speckRound .speck128x192 0x0123456789ABCDEF 0xFEDCBA9876543210 0x0F1E2D3C4B5A6978 =
      ((0xE2C3F0E19687B4A5, 0x1426242224262422) : BitVec 64 × BitVec 64) := by decide
theorem test_unround32 :
    speckUnround .speck64x96 0x12345678 0x9ABCDEF0 0x0F1E2D3C = ((0x196A330C, 0x11111111) : BitVec 32 × BitVec 32) := by decide
theorem test_unround64 :
    speckUnround .speck128x256 0x0123456789ABCDEF 0xFEDCBA9876543210 0x0F1E2D3C4B5A6978 =
      ((0x3D685BC2F1A4980E, 0xFFFFFFFFFFFFFFFF) : BitVec 64 × BitVec 64) := by decide

/-! ### One command each, 95_test_vectors.md sections 2, 5, 6 and 7 -/

/-- KEYW on SPECK-64/96: the last round key of section 5.2; KEY_LEN = 0 is not read (E1). -/
theorem test_keyw_schedule :
    statusAndKey 25 (exec .keyw { zeroState .speck64x96 with keybuf := key32 }) = some (0x02, 0x2FA7E901) := by decide +kernel
theorem test_keyw_schedule_64 :
    statusAndKey 33 (exec .keyw { zeroState .speck128x256 with keybuf := key64 }) = some (0x02, 0xF4D26F589A56B276) := by
  decide +kernel
/-- KEYB on SPECK-64/128 with KEY_LEN = 16. -/
theorem test_keyb_schedule :
    statusAndKey 26 (exec .keyb { zeroState .speck64x128 with keybuf := key32, keyLen := 16 }) = some (0x02, 0xFE6B523A) := by
  decide +kernel
/-- E6: bit 31 set, low bits = 32. -/
theorem test_keyb_all_bits_compared :
    statusAndKey 33 (exec .keyb { zeroState .speck128x256 with keyLen := 0x80000020 }) = some (0x10, 0) := by decide +kernel
/-- ENCW on SPECK-64/96: the published vector; BLK_LEN = 0 is not read, BLKBUF2 and BLKBUF3 stay (B14). -/
theorem test_encw_vector :
    statusAndBlock (exec .encw (keyed .speck64x96 #v[0x736E6165, 0x74614620, 0x11111111, 0x22222222] 0)) =
      some (0x02, [0x4175946C, 0x9F7952EC, 0x11111111, 0x22222222]) := by decide +kernel
/-- E11. -/
theorem test_encw_no_key :
    statusAndBlock (exec .encw { zeroState .speck128x128 with blkbuf := #v[1, 2, 3, 4] }) = some (0x20, [1, 2, 3, 4]) := by
  decide +kernel
/-- DECW on SPECK-128/256: Program 5. -/
theorem test_decw_vector :
    statusAndBlock (exec .decw (keyed .speck128x256 #v[0x9C188F43, 0x4EEEB48D, 0x05C0F53E, 0x41090104] 0)) =
      some (0x02, [0x6E6F6F70, 0x202E7265, 0x74206E49, 0x65736F68]) := by decide +kernel
/-- DECW on SPECK-128/192: the published vector read backwards. -/
theorem test_decw_vector_192 :
    statusAndBlock (exec .decw (keyed .speck128x192 #v[0xE03C1886, 0xF9BC185D, 0x13135566, 0x1BE4CF3A] 0)) =
      some (0x02, [0x20746E65, 0x43206F74, 0x66656968, 0x72614820]) := by decide +kernel
/-- SEAL on SPECK-128/128: the published vector (E7). -/
theorem test_seal_vector :
    statusAndBlock (exec .sealCmd (keyed .speck128x128 #v[0x64616D20, 0x74692065, 0x75716520, 0x6C617669] 16)) =
      some (0x02, [0x5C570D18, 0x7860FEDF, 0x79783265, 0xA65D9851]) := by decide +kernel
/-- E14: LEN_MISMATCH before NO_KEY. -/
theorem test_seal_length_first :
    statusAndBlock (exec .sealCmd { zeroState .speck128x192 with blkLen := 15 }) = some (0x10, [0, 0, 0, 0]) := by decide +kernel
/-- OPEN on SPECK-64/128: the published vector read backwards (E10). -/
theorem test_open_vector :
    statusAndBlock (exec .openCmd (keyed .speck64x128 #v[0x454E028B, 0x8C6FA548, 3, 4] 8)) =
      some (0x02, [0x7475432D, 0x3B726574, 3, 4]) := by decide +kernel
/-- E9. -/
theorem test_open_length :
    statusAndBlock (exec .openCmd (keyed .speck64x128 #v[1, 2, 3, 4] 16)) = some (0x12, [1, 2, 3, 4]) := by decide +kernel
/-- E20: RK all 0 and KEY_VALID 0. -/
theorem test_clrkey_clears : statusAndKey 0 (exec .clrkey (keyed .speck64x96 #v[0, 0, 0, 0] 0)) = some (0x00, 0) := by decide +kernel
/-- E18: a step with an illegal CMD value latched. -/
theorem test_illegal_step :
    statusAndBlock (step ((keyed .speck64x96 #v[5, 6, 7, 8] 0).withFetchWord 32 0x103)) = some (0x32, [5, 6, 7, 8]) := by
  decide +kernel

/-! ### The port, 95_test_vectors.md section 8 -/

theorem test_id :
    [Variant.speck64x96, .speck64x128, .speck128x128, .speck128x192, .speck128x256].map idWord =
      [0x83201A31, 0x83201B42, 0x83402023, 0x83402134, 0x83402245] := by decide
/-- B7. -/
theorem test_reset_status : State.reset.readValue (some .status) = 0 := by decide +kernel
/-- B11: a reserved offset ignores its write and reads 0. -/
theorem test_reserved :
    (zeroState .speck64x96).writeRegister (regAt (0x14 / 4)) 0x12345678 = zeroState .speck64x96 ∧
      (zeroState .speck64x96).readValue (regAt (0x14 / 4)) = 0 := ⟨rfl, by decide⟩
/-- B13: KEYBUF7 is storage even where the variant never reads it. -/
theorem test_keybuf7 :
    ((zeroState .speck64x96).writeRegister (regAt (0x3C / 4)) 0xA5A5A5A5).readValue (some (.keybuf 7)) = 0xA5A5A5A5 := by decide +kernel
/-- LDKEY of 6 bytes, by 30_encoding.md R83: the partial register is padded with zero bytes, KEY_LEN is the byte count. -/
theorem test_ldkey_expands :
    (HostLine.ldkey [0x00, 0x01, 0x02, 0x03, 0x08, 0x09] : HostLine .speck64x96).expand =
      [.write 0x20 0x03020100, .write 0x24 0x00000908, .write 0x0C 6] := by decide
/-- LDBLKW as in Program 5. -/
theorem test_ldblkw_expands :
    (HostLine.ldblkw 0x202E72656E6F6F70 0x65736F6874206E49 : HostLine .speck128x256).expand =
      [.write 0x40 0x6E6F6F70, .write 0x44 0x202E7265, .write 0x48 0x74206E49, .write 0x4C 0x65736F68] := by decide
/-- V4: a write of a reserved offset while BUSY = 1 sets FAULT, and the run stops. -/
theorem test_violation :
    ∃ t, ({ zeroState .speck64x96 with busy := true, lag := 1, host := [.write 0x14 0] } : State).hostTurn = .next t ∧
      step t = .fault .protocolViolation := ⟨_, rfl, rfl⟩

/-! ### For every statement with hypotheses, a state and operands that meet them together, at the boundary of each clause -/

/-- A block with the command of CMD value `w` pending and its completion next. -/
def pending (v : Variant) (w : BusWord) : State := (zeroState v).withFetchWord 32 w.toNat

theorem witness_CommandsAndCmdValuesAgree :
    Instr.clrkey.wf = true ∧ decode 0x00000007 = .ok .clrkey ∧ decode 0x00000001 = .ok .keyw := by decide

theorem witness_CmdValuesOfTheOpcodeMap :
    decode 0x00000000 = .error .opcodeZero ∧ decode 0x00000008 = .error .opcodeKeptForFuture ∧
      decode 0xFFFFFFFF = .error .reservedBitsSet ∧ decode 0x00000007 = .ok .clrkey := by decide

theorem witness_IllegalCmdValueIsIssuedAndReported :
    (zeroState .speck64x96).busy = false ∧ cmdRsv 0x00000100 ≠ 0 ∧ (cmdRsv 0 = 0 ∧ cmdOp 0 = 0) ∧
      (cmdRsv 8 = 0 ∧ 8 ≤ (cmdOp 8).toNat) ∧ (cmdRsv 0xFF = 0 ∧ 8 ≤ (cmdOp 0xFF).toNat) := by decide

/-- The smallest and the largest rotation amount of a word of 32 bits, at its first and last bit. -/
theorem witness_RotationsMoveBitsAround :
    ∃ m n : RotAmount 32, m.val = 1 ∧ n.val = 31 ∧ (0 < 32 ∧ 31 < 32) := ⟨⟨1, by decide⟩, ⟨31, by decide⟩, by decide⟩

theorem witness_XorAndIndexWords : 0 < Variant.speck64x96.rounds ∧ 33 < Variant.speck128x256.rounds := by decide

theorem witness_RoundAndUnroundAreInverse : ∃ alpha beta : RotAmount 64, alpha.val = 8 ∧ beta.val = 3 :=
  ⟨⟨8, by decide⟩, ⟨3, by decide⟩, rfl, rfl⟩

theorem witness_KeyScheduleProperties :
    Variant.speck128x128.keyWords = 2 ∧ 2 + 1 < Variant.speck64x128.keyWords ∧ 25 < Variant.speck64x96.rounds ∧
      24 + 1 < Variant.speck64x96.rounds := by decide

theorem witness_BufferByteViews : 0 < 8 ∧ 7 < 8 := by decide

theorem witness_KeyWordView : Variant.speck64x96.wordBits = 32 ∧ Variant.speck128x256.wordBits = 64 := by decide

theorem witness_BlockWordView :
    0 < 4 * 4 ∧ 15 < 4 * 4 ∧ Variant.speck64x96.wordBits = 32 ∧ Variant.speck128x192.wordBits = 64 := by decide

/-- Two buffers that differ from a state's in their last register, with SPECK-64/96's bytes the same. -/
theorem witness_CommandsStayInTheirBytes :
    let s := zeroState .speck64x96
    let kb : Vector BusWord 8 := s.keybuf.set 7 0xFFFFFFFF
    let bb : Vector BusWord 4 := s.blkbuf.set 3 0xFFFFFFFF
    (∀ (b : Nat) (h : b < 4 * 8), b < s.variant.keyBytes → bufByte kb b h = bufByte s.keybuf b h) ∧
      (∀ (b : Nat) (h : b < 4 * 4), b < s.variant.blockBytes → bufByte bb b h = bufByte s.blkbuf b h) ∧
      kb ≠ s.keybuf ∧ bb ≠ s.blkbuf ∧ s.variant.blockBytes ≤ 8 := by decide +kernel

theorem witness_KeybLoadsOrReportsTheLength :
    (zeroState .speck64x96).keyLen.toNat ≠ (zeroState .speck64x96).variant.keyBytes ∧
      ({ zeroState .speck64x96 with keyLen := 12 } : State).keyLen.toNat = Variant.speck64x96.keyBytes ∧
      ({ zeroState .speck128x256 with keyLen := 32 } : State).keyLen.toNat = Variant.speck128x256.keyBytes := by decide

theorem witness_EncwEncryptsTheBlock :
    (zeroState .speck64x96).keyValid = false ∧ ({ zeroState .speck64x96 with keyValid := true } : State).keyValid = true := by
  decide

theorem witness_DecwDecryptsTheBlock :
    (zeroState .speck128x256).keyValid = false ∧
      ({ zeroState .speck128x256 with keyValid := true } : State).keyValid = true := by decide

theorem witness_SealEncryptsTheBufferOfTheRightLength :
    (zeroState .speck64x96).blkLen.toNat ≠ (zeroState .speck64x96).variant.blockBytes ∧
      (let s : State := { zeroState .speck64x96 with blkLen := 8 }
       s.blkLen.toNat = s.variant.blockBytes ∧ s.keyValid = false) ∧
      (let s : State := { zeroState .speck64x96 with blkLen := 8, keyValid := true }
       s.blkLen.toNat = s.variant.blockBytes ∧ s.keyValid = true) := by decide

theorem witness_OpenDecryptsTheBufferOfTheRightLength :
    (zeroState .speck128x192).blkLen.toNat ≠ (zeroState .speck128x192).variant.blockBytes ∧
      (let s : State := { zeroState .speck128x192 with blkLen := 16 }
       s.blkLen.toNat = s.variant.blockBytes ∧ s.keyValid = false) ∧
      (let s : State := { zeroState .speck128x192 with blkLen := 16, keyValid := true }
       s.blkLen.toNat = s.variant.blockBytes ∧ s.keyValid = true) := by decide

theorem witness_SealThenOpenRestoresTheBuffer :
    let s : State := { zeroState .speck64x128 with blkLen := 8, keyValid := true }
    s.keyValid = true ∧ s.blkLen.toNat = s.variant.blockBytes := by decide

theorem witness_ClrkeyClearsTheRoundKeys :
    (let s : State := { zeroState .speck128x256 with blkLen := 16 }
     s.keyValid = false ∧ s.blkLen.toNat = s.variant.blockBytes) ∧
      (∃ s t : State, step s = .next t ∧ s.fault = false ∧ t.fault = false ∧ s.keyValid = false ∧ t.keyValid = true) :=
  ⟨by decide, pending .speck64x96 1, _, rfl, rfl, rfl, rfl, rfl⟩

/-- Two states that differ in KEY_LEN and KEYBUF. -/
theorem witness_CipherResultDependsOnBlockAndKeyOnly :
    let s : State := { zeroState .speck64x96 with blkLen := 8, keyValid := true }
    let u : State := { s with keyLen := 1, keybuf := s.keybuf.set 0 7 }
    (Instr.sealCmd = .encw ∨ Instr.sealCmd = .decw ∨ Instr.sealCmd = .sealCmd ∨ Instr.sealCmd = .openCmd) ∧
      u.variant = s.variant ∧ u.rkNats = s.rkNats ∧ u.keyValid = s.keyValid ∧ u.blkbuf = s.blkbuf ∧ u.blkLen = s.blkLen ∧
      u.keyLen ≠ s.keyLen := by decide +kernel

theorem witness_UnspecifiedRegistersNeverShow :
    ∃ s u : State, u.settled = s.settled ∧ u.pend ≠ s.pend :=
  ⟨zeroState .speck64x96, { zeroState .speck64x96 with pend := 1 }, rfl, by decide⟩

/-- OPEN with the wrong length ends with an error code. -/
theorem witness_RaisingAnErrorChangesOnlyErrAndBusy :
    ∃ t : State, exec .openCmd (zeroState .speck64x96) = .next t ∧ t.err ≠ 0 := ⟨_, rfl, by decide +kernel⟩

theorem witness_ErrorPriority :
    decode (pending .speck64x96 0).cmdLatch = .error .opcodeZero ∧
      (zeroState .speck64x96).blkLen.toNat ≠ (zeroState .speck64x96).variant.blockBytes ∧
      (zeroState .speck64x96).keyValid = false := by decide

theorem witness_IdRegisterConstants : (zeroState .speck64x96).busy = false := by decide

theorem witness_StatusReadValue :
    (zeroState .speck64x96).busy = false ∧ (pending .speck64x96 1).busy = true := by decide

/-- ERR changes at a completion; KEY_VALID rises at KEYW and at a KEYB of the right length, and falls at CLRKEY and at a reset. -/
theorem witness_StatusFieldsChangeOnlyAtCompletionOrReset :
    (∃ s t : State, step s = .next t ∧ s.fault = false ∧ t.fault = false ∧ t.err ≠ s.err ∧ s.completionDue = true) ∧
      (∃ s t : State, step s = .next t ∧ s.fault = false ∧ t.fault = false ∧ s.keyValid = false ∧ t.keyValid = true ∧
        s.cmdLatch = 1) ∧
      (∃ s t : State, step s = .next t ∧ s.fault = false ∧ t.fault = false ∧ s.keyValid = false ∧ t.keyValid = true ∧
        s.cmdLatch = 2) ∧
      (∃ s t : State, step s = .next t ∧ s.fault = false ∧ t.fault = false ∧ s.keyValid = true ∧ t.keyValid = false ∧
        s.cmdLatch = 7) ∧
      ∃ s t : State, step s = .next t ∧ s.fault = false ∧ t.fault = false ∧ s.keyValid = true ∧ t.keyValid = false ∧
        s.host = [.reset] :=
  ⟨⟨pending .speck64x96 0, _, rfl, rfl, rfl, by decide, rfl⟩,
    ⟨pending .speck64x96 1, _, rfl, rfl, rfl, rfl, rfl, rfl⟩,
    ⟨{ pending .speck64x96 2 with keyLen := 12 }, _, rfl, rfl, rfl, rfl, rfl, rfl⟩,
    ⟨{ pending .speck64x96 7 with keyValid := true }, _, rfl, rfl, rfl, rfl, rfl, rfl⟩,
    { zeroState .speck64x96 with keyValid := true, host := [.reset] }, _, rfl, rfl, rfl, rfl, rfl, rfl⟩

theorem witness_WindowMap :
    regAt 0 = some .id ∧ regAt 4 = some .blkLen ∧ regAt 5 = none ∧ regAt 7 = none ∧ regAt 8 = some (.keybuf 0) ∧
      regAt 15 = some (.keybuf 7) ∧ regAt 16 = some (.blkbuf 0) ∧ regAt 19 = some (.blkbuf 3) ∧ regAt 20 = none ∧
      regAt 63 = none := by decide

theorem witness_IdleReadsHaveNoSideEffect : (zeroState .speck64x96).busy = false ∧ 0 < 64 ∧ 63 < 64 := by decide

theorem witness_WritesDoExactlyOneThing :
    (pending .speck64x96 1).busy = true ∧ (zeroState .speck64x96).busy = false ∧ (8 ≤ 8 ∧ 8 < 16) ∧
      (8 ≤ 15 ∧ 15 < 16) ∧ (16 ≤ 16 ∧ 16 < 20) ∧ (16 ≤ 19 ∧ 19 < 20) ∧ 63 < 64 := by decide

theorem witness_OnlyWindowOffsetsAreAccesses :
    2 % 4 ≠ 0 ∧ 0xFC < 0x100 ∧ (PortCycle.mk true true false 63 0).action = some (.read 0xFC) := by decide

theorem witness_PortCycleTransactions :
    (PortCycle.mk false true true 2 1).rstN = false ∧
      (PortCycle.mk true false true 2 1).sel = false ∧ (PortCycle.mk true true true 2 1).we = true ∧
      (PortCycle.mk true true false 63 1).we = false := by decide

theorem witness_ResetEventResets :
    (let s : State := { zeroState .speck64x96 with fault := true, host := [.reset] }
     s.host = [.reset] ∧ s.fault = true) ∧
      (let s : State := { pending .speck64x96 1 with lag := 1, host := [.reset] }
       s.host = [.reset] ∧ s.completionDue = false ∧ s.busy = true) := by decide

theorem witness_IssueSetsBusyAndLatchesTheCommand :
    let s : State := { zeroState .speck64x96 with host := [.write 0x08 0x103] }
    s.host = [.write 0x08 0x103] ∧ s.busy = false ∧ s.fault = false := by decide

theorem witness_StepRunsTheDecodedCommand :
    (let s := pending .speck64x96 5
     s.fault = false ∧ s.busy = true ∧ s.lag = 0 ∧ decode s.cmdLatch = .ok .sealCmd) ∧
      (let s : State := { pending .speck64x96 7 with lag := 3 }
       s.fault = false ∧ s.busy = true ∧ s.lag ≠ 0 ∧ s.host = [] ∧ decode s.cmdLatch = .ok .clrkey) ∧
      (let s := pending .speck128x128 0x80000005
       s.fault = false ∧ s.busy = true ∧ s.lag = 0 ∧ decode s.cmdLatch = .error .reservedBitsSet) ∧
      (zeroState .speck64x96).fault = false ∧ decodeTableWord 32 7 = some .clrkey := by decide

theorem witness_BusyChangesOnlyAtIssueAndCompletion :
    (∃ s t : State, step s = .next t ∧ s.fault = false ∧ t.fault = false ∧ s.busy = false ∧ t.busy = true) ∧
      (∃ s t : State, step s = .next t ∧ s.fault = false ∧ t.fault = false ∧ s.busy = true ∧ t.busy = false ∧
        s.completionDue = true) ∧
      ∃ s t : State, step s = .next t ∧ s.fault = false ∧ t.fault = false ∧ s.busy = true ∧ t.busy = false ∧
        s.completionDue = false :=
  ⟨⟨{ zeroState .speck64x96 with host := [.write 0x08 1] }, _, rfl, rfl, rfl, rfl, rfl⟩,
    ⟨pending .speck64x96 1, _, rfl, rfl, rfl, rfl, rfl, rfl⟩,
    { pending .speck64x96 1 with lag := 1, host := [.reset] }, _, rfl, rfl, rfl, rfl, rfl, rfl⟩

theorem witness_HostProtocolWhileBusy :
    (pending .speck64x96 1).busy = true ∧ (2 ≤ 2 ∧ 2 < 64) ∧ (2 ≤ 63 ∧ 63 < 64) ∧ 0 < 64 := by decide

theorem witness_FaultIsSetByViolationsAndNeverCleared :
    (∃ s t : State, step s = .next t ∧ s.fault = true) ∧
      (∃ s t : State, step s = .next t ∧ s.fault = false ∧ t.fault = true ∧ s.host = [.write 0x0C 1]) ∧
      (∃ s t : State, step s = .next t ∧ s.fault = false ∧ t.fault = true ∧ s.host = [.read 0x08]) ∧
      ∃ s t : State, step s = .next t ∧ s.fault = false ∧ t.fault = false ∧ s.busy = true ∧ s.host = [.read 0x04] :=
  ⟨⟨{ zeroState .speck64x96 with fault := true, host := [.reset] }, _, rfl, rfl⟩,
    ⟨{ pending .speck64x96 1 with lag := 1, host := [.write 0x0C 1] }, _, rfl, rfl, rfl, rfl⟩,
    ⟨{ pending .speck64x96 1 with lag := 1, host := [.read 0x08] }, _, rfl, rfl, rfl, rfl⟩,
    { pending .speck64x96 1 with lag := 1, host := [.read 0x04] }, _, rfl, rfl, rfl, rfl, rfl⟩

theorem witness_NoMeaningAfterAProtocolViolation :
    let s : State := { zeroState .speck64x96 with fault := true, host := [.read 0x00, .reset] }
    s.fault = true ∧ ∀ rest, s.host ≠ .reset :: rest := ⟨rfl, fun _ h => by simp at h⟩

theorem witness_PendingOperandsStayAsIssued :
    ∃ s t : State, step s = .next t ∧ s.fault = false ∧ t.fault = false ∧ s.busy = true ∧ t.busy = true :=
  ⟨{ pending .speck64x96 1 with lag := 2, host := [.read 0x00] }, _, rfl, rfl, rfl, rfl, rfl⟩

theorem witness_PendingCommandCompletes :
    let s : State := { pending .speck64x96 1 with lag := 5, host := [.read 0x00, .read 0x04, .poll] }
    s.busy = true ∧ s.fault = false ∧ ∀ a ∈ s.host, a = .read 0x00 ∨ a = .read 0x04 ∨ a = .poll := by decide

theorem witness_IdleBlockHoldsItsState :
    (zeroState .speck64x96).busy = false ∧ (zeroState .speck64x96).fault = false ∧ (zeroState .speck64x96).host = [] := by decide

/-- KEYW changes RK, a KEYB that passes its check changes RK, CLRKEY changes RK. -/
theorem witness_RoundKeysChangeOnlyAtKeyCommands :
    (∃ s t : State, step s = .next t ∧ s.fault = false ∧ t.fault = false ∧ t.rkNats ≠ s.rkNats ∧
        decode s.cmdLatch = .ok .keyw) ∧
      (∃ s t : State, step s = .next t ∧ s.fault = false ∧ t.fault = false ∧ t.rkNats ≠ s.rkNats ∧
        decode s.cmdLatch = .ok .keyb) ∧
      ∃ s t : State, step s = .next t ∧ s.fault = false ∧ t.fault = false ∧ t.rkNats ≠ s.rkNats ∧
        decode s.cmdLatch = .ok .clrkey :=
  ⟨⟨pending .speck64x96 1, _, rfl, rfl, rfl, by decide +kernel, by decide⟩,
    ⟨{ pending .speck64x96 2 with keyLen := 12 }, _, rfl, rfl, rfl, by decide +kernel, by decide⟩,
    ⟨(keyed .speck64x96 #v[0, 0, 0, 0] 0).withFetchWord 32 7, _, rfl, rfl, rfl, by decide +kernel, by decide⟩⟩

theorem witness_VariantNeverChanges : ∃ s t : State, step s = .next t ∧ s.busy = true :=
  ⟨pending .speck64x96 1, _, rfl, rfl⟩

/-- A block with a key loaded and a command pending has the invariant, and it takes a step. -/
theorem witness_EveryStepKeepsTheBlockInvariant :
    ∃ s t : State, s.Inv ∧ step s = .next t ∧ s.keyValid = true ∧ s.busy = true := by
  refine ⟨(keyed .speck64x96 #v[0, 0, 0, 0] 0).withFetchWord 32 3, _, fun _ => ⟨?_, ?_, ?_⟩, rfl, rfl, rfl⟩
  · exact Nat.zero_le 3
  · exact fun _ => rfl
  · exact fun _ => ⟨State.keyWords { zeroState .speck64x96 with keybuf := key32, blkbuf := #v[0, 0, 0, 0] }, rfl⟩

theorem witness_AtomicModelReadsTheSame :
    let p : List PoliteStep := [.write 0x20 5, .run 1, .read 0x04]
    let s : State := { zeroState .speck64x96 with host := p.flatMap PoliteStep.actions }
    s.busy = false ∧ s.fault = false ∧ (∀ q ∈ p, q.wf = true) ∧ s.host = p.flatMap PoliteStep.actions := by decide

theorem witness_OnlyTheFiveParameterSets :
    (ParamSet.mk 64 4 34 3 8).variant? = some .speck128x256 ∧ (ParamSet.mk 32 3 26 3 8).wf = true ∧
      Variant.ofCode? 1 = some .speck64x96 ∧ Variant.ofCode? 5 = some .speck128x256 ∧ 6 ≤ 6 := by decide

/-- A length that is no multiple of 4, and the longest. -/
theorem witness_ByteLoadsFillTheBuffers :
    (∃ (s : State) (bytes : List Byte), s.busy = false ∧ s.fault = false ∧ bytes.length = 5 ∧
        s.host = (HostLine.ldkey bytes : HostLine s.variant).expand) ∧
      (∃ (s : State) (bytes : List Byte), s.busy = false ∧ s.fault = false ∧ bytes.length = 32 ∧
        s.host = (HostLine.ldkey bytes : HostLine s.variant).expand) ∧
      ∃ (s : State) (bytes : List Byte), s.busy = false ∧ s.fault = false ∧ bytes.length = 16 ∧
        s.host = (HostLine.ldblk bytes : HostLine s.variant).expand :=
  ⟨⟨{ zeroState .speck64x96 with host := (HostLine.ldkey [1, 2, 3, 4, 5] : HostLine .speck64x96).expand }, [1, 2, 3, 4, 5],
      rfl, rfl, rfl, rfl⟩,
    ⟨{ zeroState .speck64x96 with host := (HostLine.ldkey (List.replicate 32 9) : HostLine .speck64x96).expand },
      List.replicate 32 9, rfl, rfl, rfl, rfl⟩,
    { zeroState .speck64x96 with host := (HostLine.ldblk (List.replicate 16 9) : HostLine .speck64x96).expand },
    List.replicate 16 9, rfl, rfl, rfl, rfl⟩

theorem witness_WordLoadFillsTheBlock :
    ∃ (s : State) (w0 w1 : Word s.variant), s.busy = false ∧ s.fault = false ∧
      s.host = (HostLine.ldblkw w0 w1 : HostLine s.variant).expand :=
  ⟨{ zeroState .speck128x256 with host := (HostLine.ldblkw 1 2 : HostLine .speck128x256).expand }, (1 : BitVec 64), (2 : BitVec 64),
    rfl, rfl, rfl⟩

end Sys2Proof.Tests
end

section
/-! The parameter sets in scope (00_scope.md R2, R8): the lookups of a set and of a code answer exactly on the five rows. -/

namespace Sys2Proof

/-- Looking a row up by `f` among the five variants is the inverse of `f`, once every row finds itself. -/
theorem Variant.find?_row_eq_some_iff {α : Type} [BEq α] [LawfulBEq α] {f : Variant → α}
    (hself : ∀ v, (Variant.all.find? fun u => f u == f v) = some v) {a : α} {v : Variant} :
    (Variant.all.find? fun u => f u == a) = some v ↔ a = f v := by
  constructor
  · intro h
    have hrow : (f v == a) = true := List.find?_some (p := fun u => f u == a) h
    exact (eq_of_beq hrow).symm
  · rintro rfl
    exact hself v

@[simp] theorem ParamSet.variant?_params (v : Variant) : v.params.variant? = some v := by cases v <;> rfl

theorem ParamSet.variant?_eq_some_iff {p : ParamSet} {v : Variant} : p.variant? = some v ↔ p = v.params :=
  Variant.find?_row_eq_some_iff ParamSet.variant?_params

theorem ParamSet.wf_iff {p : ParamSet} : p.wf = true ↔ ∃ v : Variant, p = v.params := by
  simp only [ParamSet.wf, Option.isSome_iff_exists, ParamSet.variant?_eq_some_iff]

theorem Variant.params_sound (v : Variant) : v.params.sound = true := by cases v <;> rfl

@[simp] theorem Variant.ofCode?_code (v : Variant) : Variant.ofCode? v.code = some v := by cases v <;> rfl

theorem Variant.ofCode?_eq_some_iff {c : Nat} {v : Variant} : Variant.ofCode? c = some v ↔ c = v.code :=
  Variant.find?_row_eq_some_iff Variant.ofCode?_code

theorem Variant.code_pos (v : Variant) : 0 < v.code := by cases v <;> decide

theorem Variant.code_le (v : Variant) : v.code ≤ 5 := by cases v <;> decide

theorem Variant.ofCode?_eq_none {c : Nat} (hc : c = 0 ∨ 6 ≤ c) : Variant.ofCode? c = none := by
  rw [Option.eq_none_iff_forall_ne_some]
  intro v hv
  have hcode : c = v.code := Variant.ofCode?_eq_some_iff.mp hv
  have hpos := v.code_pos
  have hle := v.code_le
  omega

/-- Settles O57: each lookup answers exactly on the rows of 00_scope.md R2, and R8's invariant is checked row by row. -/
theorem onlyTheFiveParameterSets : Obligations.OnlyTheFiveParameterSets := by
  refine ⟨fun _ _ => ParamSet.variant?_eq_some_iff, ?_, fun _ _ => Variant.ofCode?_eq_some_iff,
    fun _ => Variant.ofCode?_eq_none⟩
  intro p hwf
  obtain ⟨v, rfl⟩ := ParamSet.wf_iff.mp hwf
  exact v.params_sound

end Sys2Proof
end

section
/-! What an event leaves of FAULT and VARIANT (10_state.md R22, R29): a completion keeps both, an access keeps VARIANT and sets FAULT
exactly when it breaks the host protocol (70_reset_and_hazards.md R236). -/

namespace Sys2Proof.Machine

/-! ### Completions -/

/-- Every completion is the end of a command: beside what `endCommand` writes, only the datapath, KEY_VALID and BLKBUF can differ. -/
theorem complete_ends {s t : State} (h : s.complete = .next t) :
    ∃ (c : ErrCode) (d : Datapath s.variant) (kv : Bool) (bb : Vector BusWord 4),
      t = State.endCommand c { s with dp := d, keyValid := kv, blkbuf := bb } := by
  rcases complete_cases h with ⟨i, _, hexec⟩ | ⟨_, rfl⟩
  · obtain ⟨c, d, kv, bb, hend⟩ := exec_ends i s
    rw [hend] at hexec
    cases hexec
    exact ⟨c, d, kv, bb, rfl⟩
  · exact ⟨.illegalCmd, s.dp, s.keyValid, s.blkbuf, rfl⟩

theorem complete_variant {s t : State} (h : s.complete = .next t) : t.variant = s.variant := by
  obtain ⟨_, _, _, _, rfl⟩ := complete_ends h
  rfl

theorem complete_fault {s t : State} (h : s.complete = .next t) : t.fault = s.fault := by
  obtain ⟨_, _, _, _, rfl⟩ := complete_ends h
  rfl

/-! ### Accesses -/

section Port
variable (s : State) (b : Nat) (v : BusWord)

@[simp] theorem observe_variant : (s.observe b v).variant = s.variant := rfl
@[simp] theorem observe_fault : (s.observe b v).fault = s.fault := rfl
@[simp] theorem passLag_variant : s.passLag.variant = s.variant := rfl
@[simp] theorem passLag_fault : s.passLag.fault = s.fault := rfl

@[simp] theorem hostPoll_variant : s.hostPoll.variant = s.variant := by
  unfold State.hostPoll
  split_ifs <;> rfl

@[simp] theorem hostPoll_fault : s.hostPoll.fault = s.fault := by
  unfold State.hostPoll
  split_ifs <;> rfl

end Port

/-- An offset the port takes is that of one of the 64 words of the window (20_memory.md R53). -/
theorem portTarget_ok {b : Nat} {r : Option RegName} (h : portTarget b = .ok r) : ∃ a < 64, b = 4 * a := by
  unfold portTarget at h
  split_ifs at h with hmis hout
  exact ⟨b / 4, by omega, by omega⟩

theorem hostRead_offset {s t : State} {b : Nat} (h : s.hostRead b = .next t) : ∃ a < 64, b = 4 * a := by
  unfold State.hostRead at h
  split at h
  · cases h
  · exact portTarget_ok ‹_›

/-- A read breaks the protocol exactly while BUSY = 1 and at another offset than those of ID and STATUS. -/
theorem hostRead_fault_iff {s t : State} {b : Nat} (h : s.hostRead b = .next t) (hf : s.fault = false) :
    t.fault = true ↔ s.busy = true ∧ b ≠ 0x00 ∧ b ≠ 0x04 := by
  obtain ⟨a, ha, rfl⟩ := hostRead_offset h
  cases hb : s.busy with
  | false =>
    rw [hostRead_idle s a ha hb] at h
    cases h
    simp [hf]
  | true =>
    obtain rfl | rfl | h2 : a = 0 ∨ a = 1 ∨ 2 ≤ a := by omega
    · rw [hostRead_busy_id s hb] at h
      cases h
      simp [hf]
    · rw [hostRead_busy_status s hb] at h
      cases h
      simp [hf]
    · rw [hostRead_busy_other s a h2 ha hb] at h
      cases h
      exact iff_of_true rfl ⟨rfl, by omega, by omega⟩

/-- A write breaks the protocol exactly while BUSY = 1. -/
theorem hostWrite_fault_iff {s t : State} {b : Nat} {v : BusWord} (h : s.hostWrite b v = .next t) (hf : s.fault = false) :
    t.fault = true ↔ s.busy = true := by
  rcases hostWrite_cases h with ⟨hb, rfl⟩ | ⟨hb, _, rfl⟩ | ⟨hb, _, _, _, _, rfl⟩ <;> simp [hb, hf]

/-- From FAULT = 0 an access sets FAULT exactly when BUSY = 1 and it is a write, or a read of another register than ID and STATUS. -/
theorem hostAct_fault_iff {a : HostAction} {s t : State} (h : s.hostAct a = .next t) (hf : s.fault = false) :
    t.fault = true ↔
      s.busy = true ∧ ((∃ b w, a = .write b w) ∨ ∃ b, b ≠ 0x00 ∧ b ≠ 0x04 ∧ a = .read b) := by
  cases a with
  | read b => simpa using hostRead_fault_iff h hf
  | write b v => simpa using hostWrite_fault_iff h hf
  | poll =>
    cases h
    simp [hf]
  | reset =>
    cases h
    simp [hf]

theorem hostAct_variant {a : HostAction} {s t : State} (h : s.hostAct a = .next t) : t.variant = s.variant := by
  cases a with
  | read b => rcases hostRead_cases h with ⟨_, v, rfl⟩ | ⟨_, v, rfl⟩ | ⟨_, rfl⟩ | ⟨_, rfl⟩ <;> rfl
  | write b v => rcases hostWrite_cases h with ⟨_, rfl⟩ | ⟨_, _, rfl⟩ | ⟨_, _, _, _, _, rfl⟩ <;> rfl
  | poll =>
    cases h
    exact hostPoll_variant s
  | reset =>
    cases h
    rfl

/-! ### Steps -/

/-- A step from FAULT = 1 is a reset event, which keeps FAULT (10_state.md R29). -/
theorem step_keeps_fault {s t : State} (h : step s = .next t) (hf : s.fault = true) : t.fault = true := by
  obtain ⟨_, _, rfl⟩ := step_faulted hf h
  exact hf

/-- Settles O47: from FAULT = 0 only an access taken while BUSY = 1 can set FAULT; a completion and an idle step keep it. -/
theorem faultIsSetByViolationsAndNeverCleared : Obligations.FaultIsSetByViolationsAndNeverCleared := by
  intro s t h
  refine ⟨step_keeps_fault h, fun hf => ?_⟩
  rcases step_cases hf h with ⟨hdue, hcomp⟩ | ⟨_, hnil, rfl⟩ | ⟨hdue, a, rest, hhost, hact⟩
  · simp [complete_fault hcomp, hf, hdue]
  · simp [hf, hnil]
  · simpa [hdue, hhost] using hostAct_fault_iff hact hf

/-- Settles O53: a completion, an access and a reset event each keep VARIANT, whatever FAULT is. -/
theorem variantNeverChanges : Obligations.VariantNeverChanges := by
  intro s t h
  cases hf : s.fault with
  | true =>
    obtain ⟨_, _, rfl⟩ := step_faulted hf h
    rfl
  | false =>
    rcases step_cases hf h with ⟨_, hcomp⟩ | ⟨_, _, rfl⟩ | ⟨_, a, rest, _, hact⟩
    · exact complete_variant hcomp
    · rfl
    · simpa using hostAct_variant hact

end Sys2Proof.Machine
end

section
/-! The ID register (10_state.md R31): its fields, and what an access to its offset does. -/

namespace Sys2Proof.Machine

/-- The fields of ID, from bit 0 up. -/
theorem idWord_fields (v : Variant) :
    (idWord v).extractLsb' 0 4 = BitVec.ofNat 4 v.code ∧ (idWord v).extractLsb' 4 4 = BitVec.ofNat 4 v.keyWords ∧
      (idWord v).extractLsb' 8 8 = BitVec.ofNat 8 v.rounds ∧ (idWord v).extractLsb' 16 8 = BitVec.ofNat 8 v.wordBits ∧
      (idWord v).extractLsb' 24 4 = 3 ∧ (idWord v).extractLsb' 28 4 = 8 := by
  cases v <;> decide

/-- A read of ID gives the constant whatever BUSY is; while BUSY = 1 the completion comes one transaction nearer. -/
theorem hostRead_id (s : State) :
    ∃ l : Nat, s.hostRead 0x00 = .next { s with lag := l, observed := ⟨0x00, idWord s.variant⟩ :: s.observed } := by
  rcases Bool.eq_false_or_eq_true s.busy with hb | hb
  · exact ⟨s.lag - 1, hostRead_busy_id s hb⟩
  · exact ⟨s.lag, hostRead_idle s 0 (by decide) hb⟩

/-- Settles O33, from the word of each variant and the port's rules for offset 0. -/
theorem idRegisterConstants : Obligations.IdRegisterConstants :=
  ⟨idWord_fields, by decide, hostRead_id, fun s w hb => hostWrite_idle s 0 w (by decide) hb⟩

end Sys2Proof.Machine
end

section
/-! The values 10_state.md R41 gives for reset, in the reset state and after the reset event. -/

namespace Sys2Proof.Machine

/-- With ERR = 0 and no key loaded, STATUS reads 0 on an idle block (10_state.md R32). -/
theorem idleStatus_eq_zero {s : State} (herr : s.err = 0) (hkey : s.keyValid = false) : s.idleStatus = 0 := by
  simp [State.idleStatus, herr, hkey]

/-- STATUS reads 0 in the reset state (10_state.md R41). -/
theorem resetOf_readValue_status (v : Variant) (e : Nat) : (State.resetOf v e).readValue (some .status) = 0 :=
  idleStatus_eq_zero rfl rfl

/-- STATUS reads 0 after the reset event (10_state.md R41, 70_reset_and_hazards.md R230). -/
theorem applyReset_readValue_status (s : State) : s.applyReset.readValue (some .status) = 0 :=
  idleStatus_eq_zero (applyReset_err s) (applyReset_keyValid s)

/-- Settles O41: every register but STATUS is read off the reset state; STATUS follows from ERR and KEY_VALID. -/
theorem resetValues : Obligations.ResetValues :=
  ⟨fun v e => ⟨rfl, rfl, rfl, rfl, rfl, rfl, rfl, resetOf_readValue_status v e⟩,
    ⟨rfl, rfl, rfl, rfl, rfl, resetOf_readValue_status _ _⟩,
    fun s => ⟨rfl, rfl, rfl, rfl, rfl, rfl, rfl, rfl, applyReset_readValue_status s⟩⟩

end Sys2Proof.Machine
end

section
/-! The little-endian conversions of 40_word_ops.md R100, R101: a decoded byte string as the sum of its bytes, and decoding an encoded
word. -/

namespace Sys2Proof.Machine

theorem leNumber_lt (bs : List Byte) : leNumber bs < 2 ^ (8 * bs.length) := by
  induction bs with
  | nil => simp [leNumber]
  | cons b bs ih =>
    have hb : b.toNat < 256 := b.isLt
    rw [leNumber, List.length_cons, Nat.mul_succ, Nat.pow_add]
    omega

theorem leNumber_ofFn {n : Nat} (f : Fin n → Byte) :
    leNumber (List.ofFn f) = ∑ i : Fin n, (f i).toNat * 2 ^ (8 * i.val) := by
  induction n with
  | zero => simp [leNumber]
  | succ n ih =>
    have hshift : ∀ i : Fin n, (f i.succ).toNat * 2 ^ (8 * (i.val + 1)) = 256 * ((f i.succ).toNat * 2 ^ (8 * i.val)) := by
      intro i
      rw [Nat.mul_succ, Nat.pow_add]
      ring
    simp [List.ofFn_succ, leNumber, Fin.sum_univ_succ, ih, hshift, Finset.mul_sum]

/-- A decoded byte string is the sum of its bytes, byte `i` counting `2^(8*i)` (40_word_ops.md R100). -/
theorem leDecode_ofFn_toNat {n : Nat} (f : Fin n → Byte) :
    (leDecode (Vector.ofFn f)).toNat = ∑ i : Fin n, (f i).toNat * 2 ^ (8 * i.val) := by
  have hlt := leNumber_lt (List.ofFn f)
  rw [List.length_ofFn] at hlt
  rw [leDecode, BitVec.toNat_ofNat, Vector.toList_ofFn, Nat.mod_eq_of_lt hlt, leNumber_ofFn]

/-- The low `n` bytes of a number, each times its weight, add up to its low `8*n` bits. -/
theorem sum_bytes_eq_mod (x n : Nat) : ∑ i : Fin n, x / 2 ^ (8 * i.val) % 2 ^ 8 * 2 ^ (8 * i.val) = x % 2 ^ (8 * n) := by
  induction n with
  | zero => simp [Nat.mod_one]
  | succ n ih =>
    rw [Fin.sum_univ_castSucc, Nat.mul_succ, Nat.pow_add, Nat.mod_mul, Nat.mul_comm (2 ^ (8 * n))]
    exact congrArg (· + _) ih

/-- Decoding the bytes of a word gives the word back (40_word_ops.md R101). -/
theorem leDecode_leEncode {n : Nat} (w : BitVec (8 * n)) : leDecode (leEncode w) = w := by
  apply BitVec.eq_of_toNat_eq
  rw [leEncode, leDecode_ofFn_toNat]
  simp only [BitVec.extractLsb'_toNat, Nat.shiftRight_eq_div_pow]
  rw [sum_bytes_eq_mod, Nat.mod_eq_of_lt w.isLt]

/-- Bytes that are those of `w`, from the least significant up, decode to `w`. -/
theorem leDecode_ofFn_eq {n : Nat} {f : Fin n → Byte} {w : BitVec (8 * n)} (h : ∀ i, f i = w.extractLsb' (8 * i) 8) :
    leDecode (Vector.ofFn f) = w := by
  rw [funext h]
  exact leDecode_leEncode w

end Sys2Proof.Machine
end

section
/-! The bytes of a buffer of 32-bit registers (20_memory.md R56, R57): as bits of its registers, after a register write, and decoded as a
word of one or of two registers. -/

namespace Sys2Proof.Machine

section Bytes
variable {m : Nat} (buf : Vector BusWord m)

theorem bufByte_getLsbD (b : Nat) (hb : b < 4 * m) {i : Nat} (hi : i < 8) :
    (bufByte buf b hb).getLsbD i = (buf[b / 4]'(by omega)).getLsbD (8 * (b % 4) + i) := by
  simp [bufByte, hi]

/-- A byte of a buffer after the write of one register. -/
theorem bufByte_set (r : Nat) (hr : r < m) (x : BusWord) (b : Nat) (hb : b < 4 * m) :
    bufByte (buf.set r x hr) b hb = if b / 4 = r then x.extractLsb' (8 * (b % 4)) 8 else bufByte buf b hb := by
  by_cases h : b / 4 = r
  · simp [bufByte, h]
  · simp [bufByte, h, Ne.symm h]

/-- Four bytes from a register's first one decode to the register. -/
theorem leDecode_bufByte_one {n : Nat} (hn : n = 4) (j : Nat) (hj : j < m) (h : ∀ i : Fin n, j * n + i < 4 * m) :
    (leDecode (Vector.ofFn fun i : Fin n => bufByte buf (j * n + i) (h i))).toNat = buf[j].toNat := by
  subst hn
  congr 1
  apply leDecode_ofFn_eq
  intro i
  have hreg : (j * 4 + i.val) / 4 = j := by omega
  have hbyte : (j * 4 + i.val) % 4 = i := by omega
  simp only [bufByte, hreg, hbyte]

/-- Eight bytes from an even register's first one decode to the odd register above the even one. -/
theorem leDecode_bufByte_two {n : Nat} (hn : n = 8) (j : Nat) (hj : 2 * j + 1 < m) (h : ∀ i : Fin n, j * n + i < 4 * m) :
    (leDecode (Vector.ofFn fun i : Fin n => bufByte buf (j * n + i) (h i))).toNat =
      buf[2 * j + 1].toNat * 2 ^ 32 + buf[2 * j].toNat := by
  subst hn
  have hpair : leDecode (Vector.ofFn fun i : Fin 8 => bufByte buf (j * 8 + i) (h i)) = buf[2 * j + 1] ++ buf[2 * j] := by
    apply leDecode_ofFn_eq
    intro i
    by_cases hi : i.val < 4
    · have hreg : (j * 8 + i.val) / 4 = 2 * j := by omega
      have hbyte : (j * 8 + i.val) % 4 = i := by omega
      rw [BitVec.extractLsb'_append_eq_of_add_le (by omega)]
      simp only [bufByte, hreg, hbyte]
    · have hreg : (j * 8 + i.val) / 4 = 2 * j + 1 := by omega
      have hbyte : 8 * ((j * 8 + i.val) % 4) = 8 * i - 32 := by omega
      rw [BitVec.extractLsb'_append_eq_of_le (by omega)]
      simp only [bufByte, hreg, hbyte]
  rw [hpair, BitVec.toNat_append, ← Nat.shiftLeft_add_eq_or_of_lt buf[2 * j].isLt, Nat.shiftLeft_eq]

end Bytes

/-- Settles O15: both byte views are `bufByte` of their buffer. -/
theorem bufferByteViews : Obligations.BufferByteViews :=
  fun s _ hi => ⟨fun b => bufByte_getLsbD s.keybuf b b.isLt hi, fun b => bufByte_getLsbD s.blkbuf b b.isLt hi⟩

end Sys2Proof.Machine
end

section
/-! The words of the buffers (20_memory.md R58, R59): read as the sum of their bytes and as registers, and written. -/

namespace Sys2Proof

theorem Variant.wordBytes_eq_four (v : Variant) (h : v.wordBits = 32) : v.wordBytes = 4 := by
  unfold Variant.wordBits at h
  omega

theorem Variant.wordBytes_eq_eight (v : Variant) (h : v.wordBits = 64) : v.wordBytes = 8 := by
  unfold Variant.wordBits at h
  omega

end Sys2Proof

namespace Sys2Proof.Machine

/-- Settles O16: a key word decodes its bytes, and they are one register's or two registers' bytes. -/
theorem keyWordView : Obligations.KeyWordView := by
  intro v buf j
  have hj := j.isLt
  have hM := v.keyWords_le
  refine ⟨leDecode_ofFn_toNat _, fun h => ?_, fun h => ?_⟩
  · exact leDecode_bufByte_one buf (v.wordBytes_eq_four h) j (by omega) (keyByte_lt v j)
  · exact leDecode_bufByte_two buf (v.wordBytes_eq_eight h) j (by omega) (keyByte_lt v j)

section BlockWord
variable (v : Variant) (buf : Vector BusWord 4) (j : Fin 2) (w : Word v)

/-- A byte of the block buffer after a word write. -/
theorem bufByte_setBlkWord (b : Nat) (hb : b < 4 * 4) :
    bufByte (setBlkWord v buf j w) b hb =
      if j * v.wordBytes ≤ b ∧ b < (j + 1) * v.wordBytes then w.extractLsb' (8 * (b - j * v.wordBytes)) 8
      else bufByte buf b hb := by
  rw [Nat.succ_mul]
  exact bufByte_setBlkWordLoop v j w buf v.wordBytes (Nat.le_refl _) b hb

theorem blkWordOf_setBlkWord_same : blkWordOf v (setBlkWord v buf j w) j = w := by
  apply leDecode_ofFn_eq
  intro i
  have hi := i.isLt
  rw [bufByte_setBlkWord, Nat.succ_mul, if_pos (by omega), Nat.add_sub_cancel_left]

/-- The two block words lie in disjoint halves of the block. -/
theorem blkWordOf_setBlkWord_other {j' : Fin 2} (hne : j' ≠ j) :
    blkWordOf v (setBlkWord v buf j w) j' = blkWordOf v buf j' := by
  unfold blkWordOf
  congr 2
  funext i
  have hi := i.isLt
  rw [bufByte_setBlkWord, if_neg]
  obtain ⟨rfl, rfl⟩ | ⟨rfl, rfl⟩ : j = 0 ∧ j' = 1 ∨ j = 1 ∧ j' = 0 := by omega
  · simp
  · simp [hi]

/-- Both reads of 20_memory.md R59: the sum of the bytes, and the closed form for each word width. -/
theorem blkWordOf_toNat :
    (blkWordOf v buf j).toNat =
        ∑ i : Fin v.wordBytes, (bufByte buf (j * v.wordBytes + i) (blkByte_lt v j i)).toNat * 2 ^ (8 * i.val) ∧
      (v.wordBits = 32 → (blkWordOf v buf j).toNat = (buf[j.val]'(by omega)).toNat) ∧
      (v.wordBits = 64 →
        (blkWordOf v buf j).toNat =
          (buf[2 * j.val + 1]'(by omega)).toNat * 2 ^ 32 + (buf[2 * j.val]'(by omega)).toNat) :=
  ⟨leDecode_ofFn_toNat _,
    fun h => leDecode_bufByte_one buf (v.wordBytes_eq_four h) j (by omega) (blkByte_lt v j),
    fun h => leDecode_bufByte_two buf (v.wordBytes_eq_eight h) j (by omega) (blkByte_lt v j)⟩

/-- A byte of one of a word's registers is a byte of the word. -/
theorem extractLsb'_extractLsb' {n : Nat} (x : BitVec n) (s k : Nat) (hk : k + 8 ≤ 32) :
    (x.extractLsb' s 32).extractLsb' k 8 = x.extractLsb' (s + k) 8 := by
  apply BitVec.eq_of_getLsbD_eq
  intro i hi
  have hin : k + i < 32 := by omega
  simp [hi, hin, Nat.add_assoc]

/-- For W = 32 a word write is a write of one register. -/
theorem setBlkWord_one (h : v.wordBits = 32) :
    setBlkWord v buf j w = buf.set j.val (w.extractLsb' 0 32) (by omega) := by
  have hwb := v.wordBytes_eq_four h
  apply buf_ext
  intro b hb
  rw [bufByte_setBlkWord, bufByte_set]
  have hlo : j * v.wordBytes = 4 * j := by rw [hwb, Nat.mul_comm]
  have hhi : (j + 1) * v.wordBytes = 4 * j + 4 := by rw [Nat.succ_mul, hlo, hwb]
  by_cases hreg : b / 4 = j
  · rw [if_pos (by omega), if_pos hreg, extractLsb'_extractLsb' _ _ _ (by omega)]
    congr 1
    omega
  · rw [if_neg (by omega), if_neg hreg]

/-- For W = 64 a word write is a write of two registers, the low half first. -/
theorem setBlkWord_two (h : v.wordBits = 64) :
    setBlkWord v buf j w =
      (buf.set (2 * j.val) (w.extractLsb' 0 32) (by omega)).set (2 * j.val + 1) (w.extractLsb' 32 32) (by omega) := by
  have hwb := v.wordBytes_eq_eight h
  apply buf_ext
  intro b hb
  rw [bufByte_setBlkWord, bufByte_set, bufByte_set]
  have hlo : j * v.wordBytes = 8 * j := by rw [hwb, Nat.mul_comm]
  have hhi : (j + 1) * v.wordBytes = 8 * j + 8 := by rw [Nat.succ_mul, hlo, hwb]
  by_cases hodd : b / 4 = 2 * j + 1
  · rw [if_pos (by omega), if_pos hodd, extractLsb'_extractLsb' _ _ _ (by omega)]
    congr 1
    omega
  · rw [if_neg hodd]
    by_cases heven : b / 4 = 2 * j
    · rw [if_pos (by omega), if_pos heven, extractLsb'_extractLsb' _ _ _ (by omega)]
      congr 1
      omega
    · rw [if_neg (by omega), if_neg heven]

end BlockWord

/-- Settles O17: what a word write does to each byte decides every other clause. -/
theorem blockWordView : Obligations.BlockWordView := by
  refine fun v buf j => ⟨blkWordOf_toNat v buf j, fun w => ⟨bufByte_setBlkWord v buf j w, fun j' => ?_,
    setBlkWord_one v buf j w, setBlkWord_two v buf j w⟩⟩
  by_cases hj : j' = j
  · rw [if_pos hj, hj, blkWordOf_setBlkWord_same]
  · rw [if_neg hj, blkWordOf_setBlkWord_other v buf j w hj]

end Sys2Proof.Machine
end

section
/-! What a command reads and writes of the buffers (20_memory.md R60): its own bytes only. `SameButUnusedBytes` is kept by every effect
and check the commands are made of, and so by every command. -/

namespace Sys2Proof.Machine

/-- Two buffers have the same bytes below `k`. -/
def SameBytesBelow {m : Nat} (k : Nat) (a b : Vector BusWord m) : Prop :=
  ∀ (c : Nat) (h : c < 4 * m), c < k → bufByte a c h = bufByte b c h

/-- Two buffers have the same bytes from `k` upward. -/
def SameBytesFrom {m : Nat} (k : Nat) (a b : Vector BusWord m) : Prop :=
  ∀ (c : Nat) (h : c < 4 * m), k ≤ c → bufByte a c h = bufByte b c h

/-- `u` is `s` but for buffer bytes that its variant's commands do not use. -/
def State.SameButUnusedBytes (s u : State) : Prop :=
  ∃ (kb : Vector BusWord 8) (bb : Vector BusWord 4),
    u = { s with keybuf := kb, blkbuf := bb } ∧
      SameBytesBelow s.variant.keyBytes kb s.keybuf ∧ SameBytesBelow s.variant.blockBytes bb s.blkbuf

/-- `t` has the key buffer of `s`, and its block buffer from BLOCK_BYTES upward. -/
def State.KeepsUnusedBytes (s t : State) : Prop :=
  t.keybuf = s.keybuf ∧ SameBytesFrom s.variant.blockBytes t.blkbuf s.blkbuf

/-! ### The operands -/

section Operands
variable {v : Variant}

theorem keyWordsOf_congr {a b : Vector BusWord 8} (h : SameBytesBelow v.keyBytes a b) : keyWordsOf v a = keyWordsOf v b := by
  unfold keyWordsOf keyWordOf
  congr 1
  funext j
  congr 2
  funext i
  have hi := i.isLt
  have hle : (j.val + 1) * v.wordBytes ≤ v.keyBytes := Nat.mul_le_mul_right _ j.isLt
  rw [Nat.succ_mul] at hle
  exact h _ _ (by omega)

theorem blkWordOf_congr {a b : Vector BusWord 4} (h : SameBytesBelow v.blockBytes a b) (j : Fin 2) :
    blkWordOf v a j = blkWordOf v b j := by
  unfold blkWordOf
  congr 2
  funext i
  have hi := i.isLt
  have hle : (j.val + 1) * v.wordBytes ≤ v.blockBytes := Nat.mul_le_mul_right _ j.isLt
  rw [Nat.succ_mul] at hle
  exact h _ _ (by omega)

theorem setBlkWord_sameBytesBelow {a b : Vector BusWord 4} {k : Nat} (h : SameBytesBelow k a b) (j : Fin 2) (w : Word v) :
    SameBytesBelow k (setBlkWord v a j w) (setBlkWord v b j w) := by
  intro c hc hk
  rw [bufByte_setBlkWord, bufByte_setBlkWord, h c hc hk]

theorem setBlock_sameBytesBelow {a b : Vector BusWord 4} {k : Nat} (h : SameBytesBelow k a b) (w0 w1 : Word v) :
    SameBytesBelow k (setBlock v a w0 w1) (setBlock v b w0 w1) :=
  setBlkWord_sameBytesBelow (setBlkWord_sameBytesBelow h 0 w0) 1 w1

theorem setBlkWord_sameBytesFrom (a : Vector BusWord 4) (j : Fin 2) (w : Word v) :
    SameBytesFrom v.blockBytes (setBlkWord v a j w) a := by
  intro c hc hle
  have hend : (j.val + 1) * v.wordBytes ≤ v.blockBytes := Nat.mul_le_mul_right _ j.isLt
  rw [bufByte_setBlkWord, if_neg (by omega)]

theorem setBlock_sameBytesFrom (a : Vector BusWord 4) (w0 w1 : Word v) : SameBytesFrom v.blockBytes (setBlock v a w0 w1) a :=
  fun c hc hle => (setBlkWord_sameBytesFrom _ 1 w1 c hc hle).trans (setBlkWord_sameBytesFrom a 0 w0 c hc hle)

end Operands

/-! ### The effects and the checks -/

namespace State.SameButUnusedBytes
variable {s u s' u' : State}

theorem endCommand (h : s.SameButUnusedBytes u) (c : ErrCode) : (s.endCommand c).SameButUnusedBytes (u.endCommand c) := by
  obtain ⟨kb, bb, rfl, hk, hb⟩ := h
  exact ⟨kb, bb, rfl, hk, hb⟩

theorem loadKey (h : s.SameButUnusedBytes u) : s.loadKey.SameButUnusedBytes u.loadKey := by
  obtain ⟨kb, bb, rfl, hk, hb⟩ := h
  refine ⟨kb, bb, ?_, hk, hb⟩
  simp only [State.loadKey, State.keyWords, keyWordsOf_congr hk]

theorem clearKey (h : s.SameButUnusedBytes u) : s.clearKey.SameButUnusedBytes u.clearKey := by
  obtain ⟨kb, bb, rfl, hk, hb⟩ := h
  exact ⟨kb, bb, rfl, hk, hb⟩

theorem encryptBlock (h : s.SameButUnusedBytes u) : s.encryptBlock.SameButUnusedBytes u.encryptBlock := by
  obtain ⟨kb, bb, rfl, hk, hb⟩ := h
  refine ⟨kb, _, ?_, hk, setBlock_sameBytesBelow hb _ _⟩
  simp only [State.encryptBlock, State.blkWord, blkWordOf_congr hb]

theorem decryptBlock (h : s.SameButUnusedBytes u) : s.decryptBlock.SameButUnusedBytes u.decryptBlock := by
  obtain ⟨kb, bb, rfl, hk, hb⟩ := h
  refine ⟨kb, _, ?_, hk, setBlock_sameBytesBelow hb _ _⟩
  simp only [State.decryptBlock, State.blkWord, blkWordOf_congr hb]

theorem check (h : s.SameButUnusedBytes u) (hgo : s'.SameButUnusedBytes u') {p q : Prop} [Decidable p] [Decidable q]
    (hpq : p ↔ q) (c : ErrCode) :
    (if p then s' else s.endCommand c).SameButUnusedBytes (if q then u' else u.endCommand c) := by
  simp only [hpq]
  split_ifs
  exacts [hgo, h.endCommand c]

/-- The checks read KEY_VALID, KEY_LEN, BLK_LEN and VARIANT, which are no bytes of the buffers. -/
theorem checked_registers (h : s.SameButUnusedBytes u) :
    u.keyValid = s.keyValid ∧ u.keyLen = s.keyLen ∧ u.blkLen = s.blkLen ∧ u.variant = s.variant := by
  obtain ⟨kb, bb, rfl, -, -⟩ := h
  exact ⟨rfl, rfl, rfl, rfl⟩

theorem requireKey (h : s.SameButUnusedBytes u) (hgo : s'.SameButUnusedBytes u') :
    (s.requireKey s').SameButUnusedBytes (u.requireKey u') := by
  obtain ⟨hvalid, -, -, -⟩ := h.checked_registers
  exact h.check hgo (by rw [hvalid]) .noKey

theorem requireKeyLength (h : s.SameButUnusedBytes u) (hgo : s'.SameButUnusedBytes u') :
    (s.requireKeyLength s').SameButUnusedBytes (u.requireKeyLength u') := by
  obtain ⟨-, hlen, -, hvar⟩ := h.checked_registers
  exact h.check hgo (by rw [hlen, hvar]) .lenMismatch

theorem requireBlockLength (h : s.SameButUnusedBytes u) (hgo : s'.SameButUnusedBytes u') :
    (s.requireBlockLength s').SameButUnusedBytes (u.requireBlockLength u') := by
  obtain ⟨-, -, hlen, hvar⟩ := h.checked_registers
  exact h.check hgo (by rw [hlen, hvar]) .lenMismatch

end State.SameButUnusedBytes

namespace State.KeepsUnusedBytes
variable {s t : State}

/-- An operation that leaves both buffers keeps the unused bytes. -/
theorem of_buffers (hk : t.keybuf = s.keybuf) (hb : t.blkbuf = s.blkbuf) : s.KeepsUnusedBytes t :=
  ⟨hk, fun _ _ _ => by rw [hb]⟩

theorem endCommand (h : s.KeepsUnusedBytes t) (c : ErrCode) : s.KeepsUnusedBytes (t.endCommand c) := h

theorem encryptBlock (s : State) : s.KeepsUnusedBytes s.encryptBlock := ⟨rfl, setBlock_sameBytesFrom _ _ _⟩

theorem decryptBlock (s : State) : s.KeepsUnusedBytes s.decryptBlock := ⟨rfl, setBlock_sameBytesFrom _ _ _⟩

/-- A check that fails keeps every byte, and one that passes goes on. -/
theorem check (h : s.KeepsUnusedBytes t) {p : Prop} [Decidable p] (c : ErrCode) :
    s.KeepsUnusedBytes (if p then t else s.endCommand c) := by
  split_ifs
  exacts [h, of_buffers rfl rfl]

theorem requireKey (h : s.KeepsUnusedBytes t) : s.KeepsUnusedBytes (s.requireKey t) := h.check .noKey

theorem requireKeyLength (h : s.KeepsUnusedBytes t) : s.KeepsUnusedBytes (s.requireKeyLength t) := h.check .lenMismatch

theorem requireBlockLength (h : s.KeepsUnusedBytes t) : s.KeepsUnusedBytes (s.requireBlockLength t) :=
  h.check .lenMismatch

end State.KeepsUnusedBytes

/-! ### The commands -/

/-- From two states that are the same but for unused bytes a command ends in two such states. -/
theorem exec_sameButUnusedBytes (i : Instr) {s u : State} (h : s.SameButUnusedBytes u) :
    ∃ s' u' : State, exec i s = .next s' ∧ exec i u = .next u' ∧ s'.SameButUnusedBytes u' := by
  have hload := h.loadKey.endCommand .ok
  have henc := h.encryptBlock.endCommand .ok
  have hdec := h.decryptBlock.endCommand .ok
  cases i with
  | keyw => exact ⟨_, _, rfl, rfl, hload⟩
  | keyb => exact ⟨_, _, rfl, rfl, h.requireKeyLength hload⟩
  | encw => exact ⟨_, _, rfl, rfl, h.requireKey henc⟩
  | decw => exact ⟨_, _, rfl, rfl, h.requireKey hdec⟩
  | sealCmd => exact ⟨_, _, rfl, rfl, h.requireBlockLength (h.requireKey henc)⟩
  | openCmd => exact ⟨_, _, rfl, rfl, h.requireBlockLength (h.requireKey hdec)⟩
  | clrkey => exact ⟨_, _, rfl, rfl, h.clearKey.endCommand .ok⟩

/-- A command writes no byte of the buffers but BB(0) .. BB(BLOCK_BYTES − 1). -/
theorem exec_keepsUnusedBytes {i : Instr} {s t : State} (h : exec i s = .next t) : s.KeepsUnusedBytes t := by
  have hload : s.KeepsUnusedBytes s.loadKey := .of_buffers rfl rfl
  have hclear : s.KeepsUnusedBytes s.clearKey := .of_buffers rfl rfl
  have henc := (State.KeepsUnusedBytes.encryptBlock s).endCommand .ok
  have hdec := (State.KeepsUnusedBytes.decryptBlock s).endCommand .ok
  cases i <;> cases h
  case keyw => exact hload.endCommand .ok
  case keyb => exact (hload.endCommand .ok).requireKeyLength
  case encw => exact henc.requireKey
  case decw => exact hdec.requireKey
  case sealCmd => exact henc.requireKey.requireBlockLength
  case openCmd => exact hdec.requireKey.requireBlockLength
  case clrkey => exact hclear.endCommand .ok

/-- No command changes VARIANT. -/
theorem exec_variant {i : Instr} {s t : State} (h : exec i s = .next t) : t.variant = s.variant := by
  obtain ⟨c, d, kv, bb, hend⟩ := exec_ends i s
  rw [hend] at h
  cases h
  rfl

/-- Settles O18: the two runs end the same but for unused bytes, and the first one kept its own. -/
theorem commandsStayInTheirBytes : Obligations.CommandsStayInTheirBytes := by
  intro i s kb bb hk hb
  obtain ⟨t, u, hs, hu, kb', bb', rfl, -, hb'⟩ := exec_sameButUnusedBytes i ⟨kb, bb, rfl, hk, hb⟩
  obtain ⟨hkeep, hblk⟩ := exec_keepsUnusedBytes hs
  rw [exec_variant hs] at hb'
  exact ⟨t, _, hs, hu, rfl, rfl, rfl, hb', hkeep, hblk⟩

end Sys2Proof.Machine
end

section
/-! What the port does with an access (20_memory.md R53, R55): the effect of a write at each word of the window, and that the accesses it
can express are exactly those of the window's words. -/

namespace Sys2Proof.Machine

theorem portTarget_refuses {b : Nat} (h : b % 4 ≠ 0 ∨ 0xFC < b) : ∃ r, portTarget b = .error r := by
  unfold portTarget
  by_cases hmis : b % 4 ≠ 0
  · exact ⟨_, if_pos hmis⟩
  · rw [if_neg hmis, if_pos (h.resolve_left hmis)]
    exact ⟨_, rfl⟩

/-- The effect of a write while BUSY = 0, by the word index of its offset (20_memory.md R55). -/
theorem writeRegister_regAt (s : State) (a : Nat) (v : BusWord) :
    s.writeRegister (regAt a) v =
      if a = 2 then s.issue v
      else if a = 3 then { s with keyLen := v }
      else if a = 4 then { s with blkLen := v }
      else if h : 8 ≤ a ∧ a < 16 then { s with keybuf := s.keybuf.set (a - 8) v (by omega) }
      else if h : 16 ≤ a ∧ a < 20 then { s with blkbuf := s.blkbuf.set (a - 16) v (by omega) }
      else s := by
  by_cases hnamed : a < 5
  · interval_cases a <;> rfl
  · unfold regAt
    iterate 8 rw [if_neg (by omega)]
    split_ifs <;> rfl

/-- Settles O38: while BUSY = 1 every write is a violation, and while BUSY = 0 it does what its register takes. -/
theorem writesDoExactlyOneThing : Obligations.WritesDoExactlyOneThing := by
  refine ⟨fun s a v hb ha => ⟨_, hostWrite_busy s a v ha hb, violate_fault s⟩, fun s a v hb ha => ?_⟩
  rw [hostWrite_idle s a v ha hb, writeRegister_regAt]

/-- A read of a word of the window is always answered. -/
theorem hostRead_answers (s : State) {a : Nat} (ha : a < 64) : ∃ t : State, s.hostRead (4 * a) = .next t := by
  rcases Bool.eq_false_or_eq_true s.busy with hb | hb
  · obtain rfl | rfl | h2 : a = 0 ∨ a = 1 ∨ 2 ≤ a := by omega
    · exact ⟨_, hostRead_busy_id s hb⟩
    · exact ⟨_, hostRead_busy_status s hb⟩
    · exact ⟨_, hostRead_busy_other s a h2 ha hb⟩
  · exact ⟨_, hostRead_idle s a ha hb⟩

/-- A write of a word of the window is always answered. -/
theorem hostWrite_answers (s : State) {a : Nat} (ha : a < 64) (v : BusWord) :
    ∃ t : State, s.hostWrite (4 * a) v = .next t := by
  rcases Bool.eq_false_or_eq_true s.busy with hb | hb
  · exact ⟨_, hostWrite_busy s a v ha hb⟩
  · exact ⟨_, hostWrite_idle s a v ha hb⟩

theorem offsetWf_word {a : Nat} (ha : a < 64) : offsetWf (4 * a) = true := by
  simp only [offsetWf, Bool.and_eq_true, beq_iff_eq, decide_eq_true_eq]
  omega

/-- The transactions a clock cycle of the port can give. -/
theorem portCycle_action_cases {c : PortCycle} {a : HostAction} (h : c.action = some a) :
    a = .reset ∨ ∃ k < 64, (∃ v, a = .write (4 * k) v) ∨ a = .read (4 * k) := by
  unfold PortCycle.action at h
  have hk := c.addr.isLt
  split_ifs at h <;> cases h
  · exact .inl rfl
  · exact .inr ⟨c.addr.toNat, hk, .inl ⟨_, rfl⟩⟩
  · exact .inr ⟨c.addr.toNat, hk, .inr rfl⟩

/-- Settles O39: `portTarget` refuses every other offset, and the 6 bits of `addr` name a word of the window. -/
theorem onlyWindowOffsetsAreAccesses : Obligations.OnlyWindowOffsetsAreAccesses := by
  constructor
  · intro s b v hb
    obtain ⟨r, hr⟩ := portTarget_refuses hb
    exact ⟨⟨r, by simp only [State.hostRead, hr]⟩, r, by simp only [State.hostWrite, hr]⟩
  · intro c a s hc
    obtain rfl | ⟨k, hk, ⟨v, rfl⟩ | rfl⟩ := portCycle_action_cases hc
    · exact ⟨rfl, _, rfl⟩
    · exact ⟨offsetWf_word hk, hostWrite_answers s hk v⟩
    · exact ⟨offsetWf_word hk, hostRead_answers s hk⟩

end Sys2Proof.Machine
end

section
/-! What an access that keeps the host protocol leaves of a pending command's operands (20_memory.md R66). -/

namespace Sys2Proof.Machine

/-- `t` has every operand a pending command of `s` can read, its CMD value and PEND. -/
def State.KeepsOperands (s t : State) : Prop :=
  t.keybuf = s.keybuf ∧ t.blkbuf = s.blkbuf ∧ t.keyLen = s.keyLen ∧ t.blkLen = s.blkLen ∧
    t.keyValid = s.keyValid ∧ t.rkNats = s.rkNats ∧ t.cmdLatch = s.cmdLatch ∧ t.pend = s.pend

/-- Whatever passes the lag, draws, and records values read keeps the operands. -/
theorem State.KeepsOperands.of_record (s : State) (l n : Nat) (hs : List HostAction) (os : List ReadValue) :
    s.KeepsOperands { s with lag := l, draws := n, host := hs, observed := os } :=
  ⟨rfl, rfl, rfl, rfl, rfl, rfl, rfl, rfl⟩

theorem complete_busy {s t : State} (h : s.complete = .next t) : t.busy = false := by
  obtain ⟨_, _, _, _, rfl⟩ := complete_ends h
  rfl

/-- An access while BUSY = 1 that neither breaks the protocol nor resets keeps the operands. -/
theorem hostAct_keepsOperands {a : HostAction} {s t : State} (h : s.hostAct a = .next t) (hb : s.busy = true)
    (hbt : t.busy = true) (hf : t.fault = false) : s.KeepsOperands t := by
  cases a with
  | read b =>
    rcases hostRead_cases h with ⟨hidle, _⟩ | ⟨_, v, rfl⟩ | ⟨_, rfl⟩ | ⟨_, rfl⟩
    · simp [hb] at hidle
    · exact .of_record s _ _ _ _
    · exact .of_record s _ _ _ _
    · simp at hf
  | write b v =>
    rcases hostWrite_cases h with ⟨_, rfl⟩ | ⟨hidle, _⟩ | ⟨hidle, _⟩
    · simp at hf
    · simp [hb] at hidle
    · simp [hb] at hidle
  | poll =>
    cases h
    rw [State.hostPoll, if_pos hb]
    exact .of_record s _ _ _ _
  | reset =>
    cases h
    simp at hbt

/-- Settles O49: a completion and a reset end BUSY, and every other access that keeps the protocol is a read. -/
theorem pendingOperandsStayAsIssued : Obligations.PendingOperandsStayAsIssued := by
  intro s t h hf hft hb hbt
  rcases step_cases hf h with ⟨_, hcomp⟩ | ⟨_, _, rfl⟩ | ⟨_, a, rest, _, hact⟩
  · simp [complete_busy hcomp] at hbt
  · exact State.KeepsOperands.of_record t _ _ _ _
  · exact hostAct_keepsOperands (s := { s with host := rest }) hact hb hbt hft

end Sys2Proof.Machine
end

section
/-! The decoder's rejections (30_encoding.md R71, R72): which CMD values select no command, by their fields and as numbers, and what
becomes of such a value. -/

namespace Sys2Proof

/-- A CMD value is its RSV field above its OP field (30_encoding.md R70). -/
theorem toNat_eq_cmdRsv_cmdOp (w : BusWord) : w.toNat = 256 * (cmdRsv w).toNat + (cmdOp w).toNat := by
  simp only [cmdRsv, cmdOp, BitVec.extractLsb'_toNat, Nat.shiftRight_eq_div_pow]
  omega

/-- The opcodes outside the seven rows of 30_encoding.md R71 (R72). -/
theorem decodeOp_error_iff (op : Byte) : (∃ e, decodeOp op = .error e) ↔ op = 0 ∨ 8 ≤ op.toNat := by
  have hzero : op = 0 ↔ op.toNat = 0 := BitVec.toNat_inj.symm
  rw [hzero, decodeOp]
  split <;> simp only [Except.error.injEq, exists_eq', reduceCtorEq, exists_false, true_iff, false_iff, imp_false] at * <;> omega

/-- The decoder rejects by RSV first, then by the opcode. -/
theorem decode_error_iff (w : BusWord) :
    (∃ e, decode w = .error e) ↔ cmdRsv w ≠ 0 ∨ cmdOp w = 0 ∨ 8 ≤ (cmdOp w).toNat := by
  unfold decode
  split_ifs with hrsv
  · exact iff_of_true ⟨_, rfl⟩ (.inl hrsv)
  · rw [decodeOp_error_iff, or_iff_right hrsv]

/-- A value with an illegal field is 0 or at least 8, since RSV counts 256 and more. -/
theorem decode_error_iff_toNat (w : BusWord) : (∃ e, decode w = .error e) ↔ w.toNat = 0 ∨ 8 ≤ w.toNat := by
  have hfields := toNat_eq_cmdRsv_cmdOp w
  have hrsv : cmdRsv w = 0 ↔ (cmdRsv w).toNat = 0 := BitVec.toNat_inj.symm
  have hop : cmdOp w = 0 ↔ (cmdOp w).toNat = 0 := BitVec.toNat_inj.symm
  rw [decode_error_iff, ne_eq, hrsv, hop]
  omega

end Sys2Proof

namespace Sys2Proof.Machine

/-- The completion of a rejected CMD value is the ILLEGAL_CMD failure (60_exceptions.md R207). -/
theorem complete_of_decode_error {s : State} {e : DecodeError} (h : decode s.cmdLatch = .error e) :
    s.complete = .next (s.endCommand .illegalCmd) := by
  rw [State.complete, h]
  rfl

/-- Settles O3: the write issues the value whatever it is, the completion decodes the latched value, and the rejected values are the
illegal ones. -/
theorem illegalCmdValueIsIssuedAndReported : Obligations.IllegalCmdValueIsIssuedAndReported := by
  refine ⟨fun s w hidle hillegal => ?_, fun w => ?_⟩
  · obtain ⟨e, he⟩ := (decode_error_iff w).mpr hillegal
    exact ⟨s.issue w, _, hostWrite_idle s 2 w (by decide) hidle, rfl, complete_of_decode_error he,
      endsAs_endCommand .illegalCmd (s.issue w) _ rfl⟩
  · cases h : decode w with
    | ok i => exact .inl ⟨i, rfl⟩
    | error e => exact .inr ((decode_error_iff w).mp ⟨e, h⟩)

/-- Settles O2: the table's values are evaluated, the others are the rejected ones as numbers. -/
theorem cmdValuesOfTheOpcodeMap : Obligations.CmdValuesOfTheOpcodeMap :=
  ⟨by decide, fun w => (decode_error_iff_toNat w).symm⟩

end Sys2Proof.Machine
end

section
/-! The inverse of a decoding (40_word_ops.md R101): the bytes of a number, and encoding a decoded byte string. -/

namespace Sys2Proof.Machine

/-- Byte `i` of the number of a byte string is the string's byte `i`. -/
theorem leNumber_byte (bs : List Byte) (i : Nat) (hi : i < bs.length) :
    leNumber bs / 2 ^ (8 * i) % 2 ^ 8 = bs[i].toNat := by
  induction bs generalizing i with
  | nil => exact absurd hi (Nat.not_lt_zero i)
  | cons b bs ih =>
    have hb : b.toNat < 256 := b.isLt
    cases i with
    | zero =>
      simp only [leNumber, List.getElem_cons_zero, Nat.mul_zero, Nat.pow_zero, Nat.div_one]
      omega
    | succ i =>
      have hdrop : (b.toNat + 256 * leNumber bs) / 2 ^ 8 = leNumber bs := by omega
      rw [List.getElem_cons_succ, ← ih i (Nat.lt_of_succ_lt_succ hi), leNumber, Nat.mul_succ, Nat.add_comm (8 * i),
        Nat.pow_add, ← Nat.div_div_eq_div_mul, hdrop]

theorem leEncode_getElem {n : Nat} (w : BitVec (8 * n)) (i : Nat) (hi : i < n) :
    (leEncode w)[i] = w.extractLsb' (8 * i) 8 := by
  simp [leEncode]

/-- Encoding a decoded byte string gives its bytes back (40_word_ops.md R101). -/
theorem leEncode_leDecode {n : Nat} (b : Vector Byte n) : leEncode (leDecode b) = b := by
  apply Vector.ext
  intro i hi
  have hlt := leNumber_lt b.toList
  rw [Vector.length_toList] at hlt
  apply BitVec.eq_of_toNat_eq
  rw [leEncode_getElem, BitVec.extractLsb'_toNat, leDecode, BitVec.toNat_ofNat, Nat.mod_eq_of_lt hlt,
    Nat.shiftRight_eq_div_pow, leNumber_byte _ _ (by simpa using hi), Vector.getElem_toList]

/-- Settles O4: the two inverse laws, and a decoded string read as the string of its bytes. -/
theorem littleEndianConversions : Obligations.LittleEndianConversions := by
  refine ⟨fun _ => leDecode_leEncode, fun _ => leEncode_leDecode, fun _ w i => leEncode_getElem w i i.isLt,
    fun _ b => ?_, by decide, by decide⟩
  have hsum := leDecode_ofFn_toNat fun i => b[i.val]
  rwa [Vector.ofFn_getElem] at hsum

end Sys2Proof.Machine
end

section
/-! The rotations of 40_word_ops.md R104, R105, bit by bit: bit `i` moves `n` places around the word. -/

namespace Sys2Proof.Machine

section Rotation
variable {w : Nat} (n : RotAmount w) (v : BitVec w)

theorem rolW_eq_rotateLeft : rolW v n = v.rotateLeft n.val :=
  (BitVec.rotateLeft_eq_rotateLeftAux_of_lt n.property.2).symm

theorem rorW_eq_rotateRight : rorW v n = v.rotateRight n.val :=
  (BitVec.rotateRight_eq_rotateRightAux_of_lt n.property.2).symm

theorem rolW_toNat : (rolW v n).toNat = (v.toNat * 2 ^ n.val) % 2 ^ w ||| v.toNat / 2 ^ (w - n.val) := by
  rw [rolW_eq_rotateLeft, BitVec.toNat_rotateLeft, Nat.mod_eq_of_lt n.property.2, Nat.shiftLeft_eq,
    Nat.shiftRight_eq_div_pow]

theorem rorW_toNat : (rorW v n).toNat = v.toNat / 2 ^ n.val ||| (v.toNat * 2 ^ (w - n.val)) % 2 ^ w := by
  rw [rorW_eq_rotateRight, BitVec.toNat_rotateRight, Nat.mod_eq_of_lt n.property.2, Nat.shiftLeft_eq,
    Nat.shiftRight_eq_div_pow]

theorem rolW_getLsbD {i : Nat} (hi : i < w) : (rolW v n).getLsbD i = v.getLsbD ((i + w - n.val) % w) := by
  have hn := n.property.2
  rw [rolW_eq_rotateLeft, BitVec.getLsbD_rotateLeft_of_le hn]
  by_cases hin : i < n.val
  · have hsrc : (i + w - n.val) % w = w - n.val + i := by rw [Nat.mod_eq_of_lt (by omega)]; omega
    simp [hin, hsrc]
  · have hsrc : (i + w - n.val) % w = i - n.val := by
      rw [Nat.mod_eq_sub_mod (by omega), Nat.mod_eq_of_lt (by omega)]; omega
    simp [hin, hi, hsrc]

theorem rorW_getLsbD {i : Nat} (hi : i < w) : (rorW v n).getLsbD i = v.getLsbD ((i + n.val) % w) := by
  have hn := n.property.2
  rw [rorW_eq_rotateRight, BitVec.getLsbD_rotateRight_of_lt hn]
  by_cases hin : i < w - n.val
  · have hsrc : (i + n.val) % w = n.val + i := by rw [Nat.mod_eq_of_lt (by omega), Nat.add_comm]
    simp [hin, hsrc]
  · have hsrc : (i + n.val) % w = i - (w - n.val) := by
      rw [Nat.mod_eq_sub_mod (by omega), Nat.mod_eq_of_lt (by omega)]; omega
    simp [hin, hi, hsrc]

/-- Rotating left and back right (40_word_ops.md R105). -/
theorem rorW_rolW : rorW (rolW v n) n = v := by
  apply BitVec.eq_of_getLsbD_eq
  intro i hi
  have hback : ((i + n.val) % w + w - n.val) % w = i := by
    rw [Nat.add_sub_assoc n.property.2.le, Nat.mod_add_mod, show i + n.val + (w - n.val) = i + w by omega,
      Nat.add_mod_right, Nat.mod_eq_of_lt hi]
  rw [rorW_getLsbD n _ hi, rolW_getLsbD n v (Nat.mod_lt _ (by omega)), hback]

/-- Rotating right and back left (40_word_ops.md R105). -/
theorem rolW_rorW : rolW (rorW v n) n = v := by
  apply BitVec.eq_of_getLsbD_eq
  intro i hi
  have hback : ((i + w - n.val) % w + n.val) % w = i := by
    rw [Nat.mod_add_mod, show i + w - n.val + n.val = i + w by omega, Nat.add_mod_right, Nat.mod_eq_of_lt hi]
  rw [rolW_getLsbD n _ hi, rorW_getLsbD n v (Nat.mod_lt _ (by omega)), hback]

/-- A word whose bits are all alike is the same word rotated. -/
theorem rotate_eq_self_of_bits_eq {c : Bool} (h : ∀ i < w, v.getLsbD i = c) : rolW v n = v ∧ rorW v n = v := by
  constructor <;> apply BitVec.eq_of_getLsbD_eq <;> intro i hi
  · rw [rolW_getLsbD n v hi, h i hi, h _ (Nat.mod_lt _ (by omega))]
  · rw [rorW_getLsbD n v hi, h i hi, h _ (Nat.mod_lt _ (by omega))]

end Rotation

/-- Settles O6: the formulas, the bits, and what follows from the bits. -/
theorem rotationsMoveBitsAround : Obligations.RotationsMoveBitsAround := by
  refine ⟨fun _ n v => ⟨rolW_toNat n v, rorW_toNat n v⟩, fun _ n v _ hi => ⟨rolW_getLsbD n v hi, rorW_getLsbD n v hi⟩,
    fun _ n v => ⟨rorW_rolW n v, rolW_rorW n v⟩, fun w n => ?_, by decide, by decide⟩
  obtain ⟨hrolZero, hrorZero⟩ := rotate_eq_self_of_bits_eq n 0 fun _ _ => BitVec.getLsbD_zero
  obtain ⟨hrolOnes, hrorOnes⟩ := rotate_eq_self_of_bits_eq n (BitVec.allOnes w) (c := true) fun _ hi => by simp [hi]
  exact ⟨hrolZero, hrorZero, hrolOnes, hrorOnes⟩

end Sys2Proof.Machine
end

section
/-! Addition, subtraction, exclusive or and index words (40_word_ops.md R102, R103, R106, R107). -/

namespace Sys2Proof

/-- A round index fits a word of its variant (40_word_ops.md R107). -/
theorem Variant.rounds_lt (v : Variant) : v.rounds < 2 ^ v.wordBits := by cases v <;> decide

end Sys2Proof

namespace Sys2Proof.Machine

section Words
variable {w : Nat} (a b : BitVec w)

theorem subW_toNat : ((subW a b).toNat : Int) = ((a.toNat : Int) - (b.toNat : Int)) % 2 ^ w := by
  have hb : b.toNat ≤ 2 ^ w := b.isLt.le
  rw [subW, BitVec.toNat_sub]
  push_cast [hb]
  rw [sub_add_eq_add_sub, add_sub_assoc, Int.add_emod_left]

theorem subW_addW : subW (addW a b) b = a := BitVec.add_sub_cancel a b

theorem addW_allOnes_one : addW (BitVec.allOnes w) 1 = 0 := by
  rw [addW, ← BitVec.neg_one_eq_allOnes]
  exact neg_add_cancel 1

theorem subW_zero_one : subW (0 : BitVec w) 1 = BitVec.allOnes w := by
  rw [subW, ← BitVec.neg_one_eq_allOnes]
  exact zero_sub 1

theorem xorW_xorW : xorW (xorW a b) b = a := by
  rw [xorW, xorW, BitVec.xor_assoc, BitVec.xor_self, BitVec.xor_zero]

end Words

/-- Settles O5: the all-ones word is `-1`, and subtraction is read as a number in `Int`. -/
theorem addAndSubtractAreModular : Obligations.AddAndSubtractAreModular :=
  ⟨fun _ => BitVec.toNat_add, fun _ => subW_toNat, fun _ => subW_addW, fun _ a => ⟨BitVec.add_zero a, BitVec.sub_self a⟩,
    fun _ => ⟨addW_allOnes_one, subW_zero_one⟩, by decide, by decide⟩

/-- Settles O7: each law of exclusive or holds bit by bit, and a round index is below `2^W`. -/
theorem xorAndIndexWords : Obligations.XorAndIndexWords :=
  ⟨fun _ _ _ _ => BitVec.getLsbD_xor, fun _ a b => ⟨BitVec.xor_self, BitVec.xor_zero, xorW_xorW a b⟩, by decide,
    fun v _ hr => Nat.mod_eq_of_lt (hr.trans v.rounds_lt), by decide, by decide⟩

end Sys2Proof.Machine
end

section
/-! The key schedule (41_key_schedule.md R120 to R122): K and L after any number of passes, written without the registers, and what the
loop over the registers has of them. -/

namespace Sys2Proof.Machine

section Schedule
variable {v : Variant} (w : Vector (Word v) v.keyWords)

/-- K and L after `n` passes of the schedule of `w`, for every `n`: the unrolled recurrence of R122 (d) names leftover words that only
passes beyond the last round would consume. -/
def keyAndLeftovers : Nat → Word v × Vector (Word v) v.leftovers
  | 0 => (w[0]'v.keyWords_pos, Vector.ofFn fun j => w[j.val + 1]'(by have := v.keyWords_eq; omega))
  | n + 1 =>
    let c := keyAndLeftovers n
    let p := speckRound v c.2[slot v n] c.1 (indexW n)
    (p.2, c.2.set (slot v n) p.1)

/-- The running key before round `n`, `k_n` of R122 (d). -/
def runningKey (n : Nat) : Word v := (keyAndLeftovers w n).1

/-- The leftover word that round `n` consumes, `l_n` of R122 (d). -/
def leftoverWord (n : Nat) : Word v := (keyAndLeftovers w n).2[slot v n]

/-- The loop over the registers computes K and L, and has emitted the running key of every round behind it. -/
theorem scheduleLoop_eq_keyAndLeftovers (d : Datapath v) (n : Nat) (h : n ≤ v.rounds) :
    ((d.loadKeyWords w).scheduleLoop n h).k = runningKey w n ∧
      ((d.loadKeyWords w).scheduleLoop n h).l = (keyAndLeftovers w n).2 ∧
      ∀ (r : Nat) (hr : r < n), ((d.loadKeyWords w).scheduleLoop n h).rk[r]'(by omega) = runningKey w r := by
  induction n with
  | zero => exact ⟨rfl, rfl, fun r hr => absurd hr (Nat.not_lt_zero r)⟩
  | succ n ih =>
    obtain ⟨hk, hl, hrk⟩ := ih (Nat.le_of_succ_le h)
    simp only [Datapath.scheduleLoop, Datapath.scheduleRound, hk, hl]
    refine ⟨rfl, rfl, fun r hr => ?_⟩
    rw [Vector.getElem_set]
    split_ifs with hrn
    · rw [← hrn]
    · exact hrk r (by omega)

/-- Round key `r` is the running key before round `r`, whatever the registers held (R121, R122 (e)). -/
theorem keySchedule_rk_getElem (d : Datapath v) (r : Nat) (h : r < v.rounds) :
    (d.keySchedule w).rk[r] = runningKey w r :=
  (scheduleLoop_eq_keyAndLeftovers w d v.rounds (Nat.le_refl _)).2.2 r h

theorem roundKeys_getElem (r : Nat) (h : r < v.rounds) : (roundKeys v w)[r] = runningKey w r :=
  keySchedule_rk_getElem w _ r h

/-- The schedule depends on the key words alone (R122 (e)). -/
theorem keySchedule_rk (d : Datapath v) : (d.keySchedule w).rk = roundKeys v w :=
  Vector.ext fun r h => (keySchedule_rk_getElem w d r h).trans (roundKeys_getElem w r h).symm

/-- A pass emits K and touches no other round key, so its new K shows in no round key yet (R122 (b)). -/
theorem scheduleLoop_succ_rk (d : Datapath v) (n : Nat) (h : n + 1 ≤ v.rounds) :
    (d.scheduleLoop (n + 1) h).rk =
      (d.scheduleLoop n (Nat.le_of_succ_le h)).rk.set n (d.scheduleLoop n (Nat.le_of_succ_le h)).k h := rfl

/-! ### The slots -/

theorem slot_add_leftovers (r : Nat) : slot v (r + v.leftovers) = slot v r :=
  Fin.ext (Nat.add_mod_right r v.leftovers)

/-- NL rounds in a row use NL different slots. -/
theorem slot_ne {r n : Nat} (hlt : r < n) (hle : n < r + v.leftovers) : slot v n ≠ slot v r := by
  intro h
  have hmod : n % v.leftovers = r % v.leftovers := congrArg Fin.val h
  have hdvd : v.leftovers ∣ n - r := (Nat.modEq_iff_dvd' hlt.le).mp hmod.symm
  have := Nat.le_of_dvd (by omega) hdvd
  omega

/-- With M = 2 there is one slot (R122 (c)). -/
theorem slot_of_two_keyWords (h : v.keyWords = 2) (r : Nat) : (slot v r).val = 0 := by
  have := (slot v r).isLt
  have := v.keyWords_eq
  omega

/-- A slot keeps its word over rounds that use other slots. -/
theorem leftover_kept (i : Fin v.leftovers) (n m : Nat) (h : ∀ t < m, slot v (n + t) ≠ i) :
    (keyAndLeftovers w (n + m)).2[i] = (keyAndLeftovers w n).2[i] := by
  induction m with
  | zero => rfl
  | succ m ih =>
    have hne : (slot v (n + m)).val ≠ i.val := fun he => h m (by omega) (Fin.ext he)
    rw [← ih fun t ht => h t (by omega)]
    exact Vector.getElem_set_ne (slot v (n + m)).isLt i.isLt hne

/-! ### The unrolled recurrence -/

/-- The first NL rounds consume the key words from 1 up. -/
theorem leftoverWord_initial {j : Nat} (h : j + 1 < v.keyWords) : leftoverWord w j = w[j + 1] := by
  have hj : j < v.leftovers := by have := v.keyWords_eq; omega
  have hslot : slot v j = ⟨j, hj⟩ := Fin.ext (Nat.mod_eq_of_lt hj)
  have hkept := leftover_kept w (slot v j) 0 j fun t ht => (slot_ne (by omega) (by omega)).symm
  rw [Nat.zero_add] at hkept
  rw [leftoverWord, hkept, hslot]
  exact Vector.getElem_ofFn hj

/-- The leftover word that round `r` stores back is the one consumed NL rounds later. -/
theorem leftoverWord_add_leftovers (r : Nat) :
    leftoverWord w (r + v.leftovers) = (speckRound v (leftoverWord w r) (runningKey w r) (indexW r)).1 := by
  have hkept := leftover_kept w (slot v r) (r + 1) (v.leftovers - 1) fun t ht => slot_ne (by omega) (by omega)
  rw [show r + 1 + (v.leftovers - 1) = r + v.leftovers by have := v.leftovers_pos; omega] at hkept
  simp only [leftoverWord, slot_add_leftovers, hkept]
  exact Vector.getElem_set_self (slot v r).isLt

theorem runningKey_succ (r : Nat) :
    runningKey w (r + 1) = (speckRound v (leftoverWord w r) (runningKey w r) (indexW r)).2 := rfl

/-- The first half of R122 (d). -/
theorem leftoverWord_recurrence (r : Nat) :
    leftoverWord w (r + v.leftovers) =
      xorW (addW (runningKey w r) (rorW (leftoverWord w r) v.alpha)) (indexW r) := by
  rw [leftoverWord_add_leftovers, addW, BitVec.add_comm]
  rfl

/-- The second half of R122 (d). -/
theorem runningKey_recurrence (r : Nat) :
    runningKey w (r + 1) = xorW (rolW (runningKey w r) v.beta) (leftoverWord w (r + v.leftovers)) := by
  rw [leftoverWord_add_leftovers, runningKey_succ]
  rfl

end Schedule

/-- Settles O11: round key `r` is the running key before round `r`, and a leftover word stays in its slot from the round that stores it
to the round that consumes it. -/
theorem keyScheduleProperties : Obligations.KeyScheduleProperties := by
  intro v w
  refine ⟨roundKeys_getElem w 0 v.rounds_pos, fun d => ?_, slot_of_two_keyWords,
    ⟨leftoverWord w, fun _ => leftoverWord_initial w, fun r h => ⟨?_, fun h' => ?_⟩⟩, keySchedule_rk w⟩
  · cases v <;> exact scheduleLoop_succ_rk _ _ (Nat.le_refl _)
  · rw [roundKeys_getElem w r h]
    exact leftoverWord_recurrence w r
  · rw [roundKeys_getElem w r h, roundKeys_getElem w (r + 1) h']
    exact runningKey_recurrence w r

end Sys2Proof.Machine
end

section
/-! The key commands at their completion (41_key_schedule.md R123 to R127): the checks once they are decided, what each command leaves, and
which steps raise KEY_VALID or change RK. -/

namespace Sys2Proof.Machine

/-! ### The checks, decided -/

section Checks
variable {s : State} (go : State)

theorem requireKey_of_not_keyValid (h : s.keyValid = false) : s.requireKey go = s.endCommand .noKey :=
  if_neg (by simp [h])

theorem requireBlockLength_of_eq (h : s.blkLen.toNat = s.variant.blockBytes) : s.requireBlockLength go = go := if_pos h

theorem requireKeyLength_of_eq (h : s.keyLen.toNat = s.variant.keyBytes) : s.requireKeyLength go = go := if_pos h

theorem requireKeyLength_of_ne (h : s.keyLen.toNat ≠ s.variant.keyBytes) :
    s.requireKeyLength go = s.endCommand .lenMismatch := if_neg h

end Checks

/-! ### What a command leaves -/

/-- The end of a command changes ERR and BUSY only, whatever state the command's effect left (60_exceptions.md R204). -/
theorem endsAs_endCommand_self (c : ErrCode) (s : State) : State.EndsAs c.bits s (s.endCommand c) := endsAs_endCommand c s s.dp rfl

/-- The end of a key load: RK is the schedule of the key words whatever the registers held (R123). -/
theorem endsAs_loadKey (s : State) :
    State.EndsAs 0 { s with dp := { s.dp with rk := roundKeys s.variant s.keyWords }, keyValid := true }
      (s.loadKey.endCommand .ok) :=
  endsAs_endCommand .ok { s with dp := { s.dp with rk := roundKeys s.variant s.keyWords }, keyValid := true }
    (s.dp.keySchedule s.keyWords) (keySchedule_rk _ _)

theorem exec_keyw (s : State) : exec .keyw s = .next (s.loadKey.endCommand .ok) := rfl

theorem exec_clrkey (s : State) : exec .clrkey s = .next (s.clearKey.endCommand .ok) := rfl

/-- A KEYB with another length than KEY_BYTES fails before any schedule computation (R124). -/
theorem exec_keyb_of_ne {s : State} (h : s.keyLen.toNat ≠ s.variant.keyBytes) :
    exec .keyb s = .next (s.endCommand .lenMismatch) :=
  congrArg Host.Outcome.next (requireKeyLength_of_ne _ h)

/-- A KEYB with the length KEY_BYTES is a KEYW (R124). -/
theorem exec_keyb_of_eq {s : State} (h : s.keyLen.toNat = s.variant.keyBytes) : exec .keyb s = exec .keyw s :=
  congrArg Host.Outcome.next (requireKeyLength_of_eq _ h)

section NoKey
variable {s : State} (hkey : s.keyValid = false)
include hkey

theorem exec_encw_noKey : exec .encw s = .next (s.endCommand .noKey) :=
  congrArg Host.Outcome.next (requireKey_of_not_keyValid _ hkey)

theorem exec_decw_noKey : exec .decw s = .next (s.endCommand .noKey) :=
  congrArg Host.Outcome.next (requireKey_of_not_keyValid _ hkey)

theorem exec_sealCmd_noKey (hlen : s.blkLen.toNat = s.variant.blockBytes) :
    exec .sealCmd s = .next (s.endCommand .noKey) :=
  congrArg Host.Outcome.next ((requireBlockLength_of_eq _ hlen).trans (requireKey_of_not_keyValid _ hkey))

theorem exec_openCmd_noKey (hlen : s.blkLen.toNat = s.variant.blockBytes) :
    exec .openCmd s = .next (s.endCommand .noKey) :=
  congrArg Host.Outcome.next ((requireBlockLength_of_eq _ hlen).trans (requireKey_of_not_keyValid _ hkey))

end NoKey

/-! ### KEY_VALID -/

/-- A completion raises KEY_VALID only as the end of KEYW, or of a KEYB that passes its check. -/
theorem complete_raises_keyValid {s t : State} (h : s.complete = .next t) (hs : s.keyValid = false) (ht : t.keyValid = true) :
    decode s.cmdLatch = .ok .keyw ∨ (decode s.cmdLatch = .ok .keyb ∧ s.keyLen.toNat = s.variant.keyBytes) := by
  rcases complete_cases h with ⟨i, hi, hexec⟩ | ⟨_, rfl⟩
  · rcases exec_keyValid hexec with ⟨_, rfl | ⟨rfl, hlen⟩⟩ | ⟨hfalse, _⟩ | hsame
    · exact .inl hi
    · exact .inr ⟨hi, hlen⟩
    · simp [ht] at hfalse
    · simp [ht, hs] at hsame
  · simp [hs] at ht

/-- A reset event clears KEY_VALID, and no other access that keeps the protocol touches it. -/
theorem hostAct_keeps_not_keyValid {a : HostAction} {s t : State} (h : s.hostAct a = .next t) (hf : t.fault = false)
    (hs : s.keyValid = false) : t.keyValid = false := by
  rcases hostAct_keeps h hf with rfl | ⟨_, hkey, _⟩
  · cases h
    rfl
  · rw [hkey, hs]

/-- R126's "until a key is loaded again": KEY_VALID rises at a key load only. -/
theorem step_raises_keyValid {s t : State} (h : step s = .next t) (hf : s.fault = false) (hft : t.fault = false)
    (hs : s.keyValid = false) (ht : t.keyValid = true) :
    s.completionDue = true ∧
      (decode s.cmdLatch = .ok .keyw ∨ (decode s.cmdLatch = .ok .keyb ∧ s.keyLen.toNat = s.variant.keyBytes)) := by
  rcases step_cases hf h with ⟨hdue, hcomp⟩ | ⟨_, _, rfl⟩ | ⟨_, a, rest, _, hact⟩
  · exact ⟨hdue, complete_raises_keyValid hcomp hs ht⟩
  · simp [hs] at ht
  · have hkept := hostAct_keeps_not_keyValid hact hft hs
    simp [ht] at hkept

/-! ### RK -/

@[simp] theorem encryptBlock_rkNats (s : State) : s.encryptBlock.rkNats = s.rkNats :=
  congrArg (fun rk : Vector (Word s.variant) s.variant.rounds => rk.toList.map BitVec.toNat) (encrypt_rk _ _ _)

@[simp] theorem decryptBlock_rkNats (s : State) : s.decryptBlock.rkNats = s.rkNats :=
  congrArg (fun rk : Vector (Word s.variant) s.variant.rounds => rk.toList.map BitVec.toNat) (decrypt_rk _ _ _)

theorem requireKey_rkNats {s go : State} (h : go.rkNats = s.rkNats) : (s.requireKey go).rkNats = s.rkNats := by
  unfold State.requireKey
  split_ifs
  exacts [h, rfl]

theorem requireBlockLength_rkNats {s go : State} (h : go.rkNats = s.rkNats) :
    (s.requireBlockLength go).rkNats = s.rkNats := by
  unfold State.requireBlockLength
  split_ifs
  exacts [h, rfl]

/-- What a command does to RK: the key commands but a KEYB that fails its check may write it, the cipher commands read it only (R127). -/
theorem exec_rkNats {i : Instr} {s t : State} (h : exec i s = .next t) :
    (i = .keyw ∨ (i = .keyb ∧ s.keyLen.toNat = s.variant.keyBytes) ∨ i = .clrkey) ∨ t.rkNats = s.rkNats := by
  have henc : (s.encryptBlock.endCommand .ok).rkNats = s.rkNats := encryptBlock_rkNats s
  have hdec : (s.decryptBlock.endCommand .ok).rkNats = s.rkNats := decryptBlock_rkNats s
  cases i with
  | keyw => exact .inl (.inl rfl)
  | keyb =>
    by_cases hlen : s.keyLen.toNat = s.variant.keyBytes
    · exact .inl (.inr (.inl ⟨rfl, hlen⟩))
    · rw [exec_keyb_of_ne hlen] at h
      cases h
      exact .inr rfl
  | encw => cases h; exact .inr (requireKey_rkNats henc)
  | decw => cases h; exact .inr (requireKey_rkNats hdec)
  | sealCmd => cases h; exact .inr (requireBlockLength_rkNats (requireKey_rkNats henc))
  | openCmd => cases h; exact .inr (requireBlockLength_rkNats (requireKey_rkNats hdec))
  | clrkey => exact .inl (.inr (.inr rfl))

/-- A completion that changes RK is that of a command that may write it. -/
theorem complete_changes_rkNats {s t : State} (h : s.complete = .next t) (hrk : t.rkNats ≠ s.rkNats) :
    decode s.cmdLatch = .ok .keyw ∨ (decode s.cmdLatch = .ok .keyb ∧ s.keyLen.toNat = s.variant.keyBytes) ∨
      decode s.cmdLatch = .ok .clrkey := by
  rcases complete_cases h with ⟨i, hi, hexec⟩ | ⟨_, rfl⟩
  · rcases exec_rkNats hexec with (rfl | ⟨rfl, hlen⟩ | rfl) | hsame
    · exact .inl hi
    · exact .inr (.inl ⟨hi, hlen⟩)
    · exact .inr (.inr hi)
    · exact absurd hsame hrk
  · exact absurd rfl hrk

/-! ### The statements -/

/-- Settles O19: a key load's end is the end of a command with only RK and KEY_VALID new; the example is evaluated. -/
theorem keywLoadsTheScheduleOfTheKeyWords : Obligations.KeywLoadsTheScheduleOfTheKeyWords :=
  ⟨by decide, fun s => ⟨_, exec_keyw s, endsAs_loadKey s⟩, by decide⟩

/-- Settles O20: the length check decides between the failure and KEYW. -/
theorem keybLoadsOrReportsTheLength : Obligations.KeybLoadsOrReportsTheLength :=
  ⟨by decide, fun s hlen => ⟨_, exec_keyb_of_ne hlen, endsAs_endCommand_self .lenMismatch s⟩,
    fun s hlen => ⟨_, exec_keyb_of_eq hlen, exec_keyw s, endsAs_loadKey s⟩, by decide, by decide +kernel⟩

/-- Settles O21: with KEY_VALID = 0 every cipher command fails at its key check, and only a key load raises KEY_VALID. -/
theorem clrkeyClearsTheRoundKeys : Obligations.ClrkeyClearsTheRoundKeys := by
  refine ⟨by decide, fun s => ⟨_, exec_clrkey s, endsAs_endCommand_self .ok s.clearKey⟩, fun s hkey => ?_,
    fun s t => step_raises_keyValid⟩
  have hfail : State.EndsAs 2 s (s.endCommand .noKey) := endsAs_endCommand_self .noKey s
  exact ⟨⟨_, exec_encw_noKey hkey, hfail⟩, ⟨_, exec_decw_noKey hkey, hfail⟩,
    fun hlen => ⟨⟨_, exec_sealCmd_noKey hkey hlen, hfail⟩, ⟨_, exec_openCmd_noKey hkey hlen, hfail⟩⟩⟩

/-- Settles O52: an idle step and an access that neither resets nor breaks the protocol leave RK, and so does every completion but those
of the key commands. -/
theorem roundKeysChangeOnlyAtKeyCommands : Obligations.RoundKeysChangeOnlyAtKeyCommands := by
  intro s t h hf hft hrk
  rcases step_cases hf h with ⟨hdue, hcomp⟩ | ⟨_, _, rfl⟩ | ⟨_, a, rest, hhost, hact⟩
  · exact .inr ⟨hdue, complete_changes_rkNats hcomp hrk⟩
  · exact absurd rfl hrk
  · rcases hostAct_keeps hact hft with rfl | ⟨_, _, hsame⟩
    · exact .inl ⟨rest, hhost⟩
    · exact absurd hsame hrk

end Sys2Proof.Machine
end

section
/-! The round transform (42_round_transform.md R140 to R143): each step of UNROUND undoes a step of ROUND, in reverse order. -/

namespace Sys2Proof.Machine

/-! ### Laws of the word operations -/

section Words
variable {w : Nat} (a b : BitVec w) (n : RotAmount w)

/-- Subtracting and adding back (40_word_ops.md R103). -/
theorem addW_subW : addW (subW a b) b = a := BitVec.sub_add_cancel a b

theorem addW_zero : addW a 0 = a := BitVec.add_zero a

theorem subW_zero : subW a 0 = a := BitVec.sub_zero a

theorem xorW_self : xorW a a = 0 := BitVec.xor_self

theorem zero_xorW : xorW 0 a = a := BitVec.zero_xor

theorem rolW_zero : rolW (0 : BitVec w) n = 0 := (rotate_eq_self_of_bits_eq n 0 fun _ _ => BitVec.getLsbD_zero).1

theorem rorW_zero : rorW (0 : BitVec w) n = 0 := (rotate_eq_self_of_bits_eq n 0 fun _ _ => BitVec.getLsbD_zero).2

end Words

/-! ### The transform for every width -/

section Transform
variable {w : Nat} (alpha beta : RotAmount w) (x y k : BitVec w)

/-- ROUND in one line; the new `y` is built from the new `x` (R140). -/
theorem roundWith_eq :
    roundWith alpha beta x y k =
      (xorW (addW (rorW x alpha) y) k, xorW (rolW y beta) (xorW (addW (rorW x alpha) y) k)) := rfl

/-- UNROUND in one line; the new `x` is built from the new `y` (R141). -/
theorem unroundWith_eq :
    unroundWith alpha beta x y k =
      (rolW (subW (xorW x k) (rorW (xorW y x) beta)) alpha, rorW (xorW y x) beta) := rfl

/-- R142: taking out the new `x` gives back `y`, and with `y` known the key, the sum and the rotation come off `x` in turn. -/
theorem unroundWith_roundWith :
    unroundWith alpha beta (roundWith alpha beta x y k).1 (roundWith alpha beta x y k).2 k = (x, y) := by
  rw [roundWith_eq, unroundWith_eq, xorW_xorW, xorW_xorW, rorW_rolW, subW_addW, rolW_rorW]

/-- R143: the same cancellations the other way; the sum is now a difference added back. -/
theorem roundWith_unroundWith :
    roundWith alpha beta (unroundWith alpha beta x y k).1 (unroundWith alpha beta x y k).2 k = (x, y) := by
  rw [unroundWith_eq, roundWith_eq, rorW_rolW, addW_subW, xorW_xorW, rolW_rorW, xorW_xorW]

/-- On the zero block ROUND leaves the round key in both words (R140). -/
theorem roundWith_zero : roundWith alpha beta 0 0 k = (k, k) := by
  rw [roundWith_eq, rorW_zero, rolW_zero, addW_zero, zero_xorW, zero_xorW]

/-- Equal words cancel: UNROUND's new `y` is 0 and its new `x` takes no borrow (R141). -/
theorem unroundWith_self : unroundWith alpha beta x x k = (rolW (xorW x k) alpha, 0) := by
  rw [unroundWith_eq, xorW_self, rorW_zero, subW_zero]

/-- The zero block under the zero round key stays zero (R141). -/
theorem unroundWith_zero : unroundWith alpha beta 0 0 0 = (0, 0) := by
  rw [unroundWith_self, xorW_self, rolW_zero]

end Transform

/-! ### The statements -/

/-- Settles O10: both inverse laws, for every width and every pair of rotation amounts. -/
theorem roundAndUnroundAreInverse : Obligations.RoundAndUnroundAreInverse := fun _ alpha beta x y k =>
  ⟨unroundWith_roundWith alpha beta x y k, roundWith_unroundWith alpha beta x y k⟩

/-- Settles O8: the closed form and the zero block at the variant's rotation amounts; the lost carry and the example are evaluated. -/
theorem roundClosedForm : Obligations.RoundClosedForm :=
  ⟨fun v => roundWith_eq v.alpha v.beta, fun v => roundWith_zero v.alpha v.beta, by decide, by decide, by decide⟩

/-- Settles O9: the closed form, the zero block and equal words at the variant's rotation amounts; the lost borrow and the example are
evaluated. -/
theorem unroundClosedForm : Obligations.UnroundClosedForm :=
  ⟨fun v => unroundWith_eq v.alpha v.beta, fun v => unroundWith_zero v.alpha v.beta,
    fun v x k => congrArg Prod.snd (unroundWith_self v.alpha v.beta x k), by decide, by decide, by decide, by decide⟩

end Sys2Proof.Machine
end

section
/-! Encryption and decryption (43_cipher_commands.md R161 to R163): the loops over the registers as folds over the round keys, and that
one fold undoes the other. -/

namespace Sys2Proof.Machine

section Rounds
variable {v : Variant}

/-- ROUND on the pair (X, Y). -/
def roundPair (p : Word v × Word v) (k : Word v) : Word v × Word v := speckRound v p.1 p.2 k

/-- UNROUND on the pair (X, Y). -/
def unroundPair (p : Word v × Word v) (k : Word v) : Word v × Word v := speckUnround v p.1 p.2 k

/-- R142 on pairs. -/
theorem unroundPair_roundPair (p : Word v × Word v) (k : Word v) : unroundPair (roundPair p k) k = p :=
  unroundWith_roundWith v.alpha v.beta p.1 p.2 k

/-- R143 on pairs. -/
theorem roundPair_unroundPair (p : Word v × Word v) (k : Word v) : roundPair (unroundPair p k) k = p :=
  roundWith_unroundWith v.alpha v.beta p.1 p.2 k

/-! ### The loops are folds -/

theorem rk_take_succ (d : Datapath v) (n : Nat) (h : n < v.rounds) :
    d.rk.toList.take (n + 1) = d.rk.toList.take n ++ [d.rk[n]] := by
  rw [List.take_succ_eq_append_getElem (by simpa using h), Vector.getElem_toList]

/-- The first `n` encryption rounds fold ROUND over the first `n` round keys. -/
theorem encryptLoop_eq_foldl (d : Datapath v) (n : Nat) (h : n ≤ v.rounds) :
    ((d.encryptLoop n h).x, (d.encryptLoop n h).y) = (d.rk.toList.take n).foldl roundPair (d.x, d.y) := by
  induction n with
  | zero => rfl
  | succ n ih =>
    rw [rk_take_succ d n h, List.foldl_append, ← ih (Nat.le_of_succ_le h), ← encryptLoop_rk d n (Nat.le_of_succ_le h)]
    rfl

/-- The last `n` decryption rounds fold UNROUND over the first `n` round keys, the highest first. -/
theorem decryptLoop_eq_foldl (d : Datapath v) (n : Nat) (h : n ≤ v.rounds) :
    ((d.decryptLoop n h).x, (d.decryptLoop n h).y) = (d.rk.toList.take n).reverse.foldl unroundPair (d.x, d.y) := by
  induction n generalizing d with
  | zero => rfl
  | succ n ih =>
    rw [rk_take_succ d n h, List.reverse_append]
    exact ih (d.decryptRound ⟨n, h⟩) (Nat.le_of_succ_le h)

theorem encrypt_eq_foldl (d : Datapath v) (b0 b1 : Word v) :
    ((d.encrypt b0 b1).x, (d.encrypt b0 b1).y) = d.rk.toList.foldl roundPair (b1, b0) := by
  have hall := encryptLoop_eq_foldl (d.loadBlock b0 b1) v.rounds (Nat.le_refl _)
  rwa [List.take_of_length_le (by simp)] at hall

theorem decrypt_eq_foldl (d : Datapath v) (b0 b1 : Word v) :
    ((d.decrypt b0 b1).x, (d.decrypt b0 b1).y) = d.rk.toList.reverse.foldl unroundPair (b1, b0) := by
  have hall := decryptLoop_eq_foldl (d.loadBlock b0 b1) v.rounds (Nat.le_refl _)
  rwa [List.take_of_length_le (by simp)] at hall

/-! ### Encrypt and Decrypt as functions of the round keys and the block -/

variable (rk : Vector (Word v) v.rounds) (b0 b1 : Word v)

theorem encryptWords_eq_foldl : encryptWords rk b0 b1 = (rk.toList.foldl roundPair (b1, b0)).swap :=
  congrArg Prod.swap (encrypt_eq_foldl (Datapath.ofKeys rk) b0 b1)

theorem decryptWords_eq_foldl : decryptWords rk b0 b1 = (rk.toList.reverse.foldl unroundPair (b1, b0)).swap :=
  congrArg Prod.swap (decrypt_eq_foldl (Datapath.ofKeys rk) b0 b1)

/-- Encryption on the registers does not depend on what X, Y, RC, K and L held (R161). -/
theorem encrypt_eq_encryptWords (d : Datapath v) :
    ((d.encrypt b0 b1).y, (d.encrypt b0 b1).x) = encryptWords d.rk b0 b1 :=
  (congrArg Prod.swap (encrypt_eq_foldl d b0 b1)).trans (encryptWords_eq_foldl d.rk b0 b1).symm

/-- Decryption on the registers does not depend on what X, Y, RC, K and L held (R162). -/
theorem decrypt_eq_decryptWords (d : Datapath v) :
    ((d.decrypt b0 b1).y, (d.decrypt b0 b1).x) = decryptWords d.rk b0 b1 :=
  (congrArg Prod.swap (decrypt_eq_foldl d b0 b1)).trans (decryptWords_eq_foldl d.rk b0 b1).symm

end Rounds

/-! ### The round trip -/

/-- A fold is undone by folding, in reverse, a step that undoes each of its steps. -/
theorem foldl_reverse_foldl {α β : Type} {f g : β → α → β} (hgf : ∀ p k, g (f p k) k = p) (ks : List α) (p : β) :
    ks.reverse.foldl g (ks.foldl f p) = p := by
  induction ks generalizing p with
  | nil => rfl
  | cons k ks ih => simp [ih, hgf]

section RoundTrip
variable {v : Variant} (rk : Vector (Word v) v.rounds) (b0 b1 : Word v)

theorem decryptWords_encryptWords :
    decryptWords rk (encryptWords rk b0 b1).1 (encryptWords rk b0 b1).2 = (b0, b1) := by
  rw [decryptWords_eq_foldl, encryptWords_eq_foldl]
  exact congrArg Prod.swap (foldl_reverse_foldl unroundPair_roundPair rk.toList (b1, b0))

theorem encryptWords_decryptWords :
    encryptWords rk (decryptWords rk b0 b1).1 (decryptWords rk b0 b1).2 = (b0, b1) := by
  have hundo := foldl_reverse_foldl roundPair_unroundPair rk.toList.reverse (b1, b0)
  rw [List.reverse_reverse] at hundo
  rw [encryptWords_eq_foldl, decryptWords_eq_foldl]
  exact congrArg Prod.swap hundo

end RoundTrip

/-! ### The statements -/

/-- Settles O12: the loop is the fold of ROUND over the round keys, for the registers as for the function. -/
theorem encryptIsTheRoundsInOrder : Obligations.EncryptIsTheRoundsInOrder := fun _ d b0 b1 =>
  ⟨encrypt_eq_encryptWords b0 b1 d, encryptWords_eq_foldl d.rk b0 b1⟩

/-- Settles O13: the loop is the fold of UNROUND over the round keys in reverse, for the registers as for the function. -/
theorem decryptIsTheInverseRoundsInReverse : Obligations.DecryptIsTheInverseRoundsInReverse := fun _ d b0 b1 =>
  ⟨decrypt_eq_decryptWords b0 b1 d, decryptWords_eq_foldl d.rk b0 b1⟩

/-- Settles O14: each round undoes its counterpart, and the keys come in opposite orders. -/
theorem encryptAndDecryptAreInverse : Obligations.EncryptAndDecryptAreInverse := fun _ rk b0 b1 =>
  ⟨decryptWords_encryptWords rk b0 b1, encryptWords_decryptWords rk b0 b1⟩

end Sys2Proof.Machine
end

section
/-! The cipher commands at their completion (43_cipher_commands.md R165 to R169): what each leaves once its checks are decided, and what
its result depends on. -/

namespace Sys2Proof.Machine

/-! ### The checks, decided -/

section Checks
variable {s : State} (go : State)

theorem requireKey_of_keyValid (h : s.keyValid = true) : s.requireKey go = go := if_pos h

theorem requireBlockLength_of_ne (h : s.blkLen.toNat ≠ s.variant.blockBytes) :
    s.requireBlockLength go = s.endCommand .lenMismatch := if_neg h

end Checks

section Outcomes
variable {s : State}

theorem exec_encw_of_keyValid (h : s.keyValid = true) : exec .encw s = .next (s.encryptBlock.endCommand .ok) :=
  congrArg Host.Outcome.next (requireKey_of_keyValid _ h)

theorem exec_decw_of_keyValid (h : s.keyValid = true) : exec .decw s = .next (s.decryptBlock.endCommand .ok) :=
  congrArg Host.Outcome.next (requireKey_of_keyValid _ h)

theorem exec_sealCmd_of_ne (h : s.blkLen.toNat ≠ s.variant.blockBytes) :
    exec .sealCmd s = .next (s.endCommand .lenMismatch) :=
  congrArg Host.Outcome.next (requireBlockLength_of_ne _ h)

theorem exec_openCmd_of_ne (h : s.blkLen.toNat ≠ s.variant.blockBytes) :
    exec .openCmd s = .next (s.endCommand .lenMismatch) :=
  congrArg Host.Outcome.next (requireBlockLength_of_ne _ h)

/-- SEAL with the length BLOCK_BYTES is ENCW (R167). -/
theorem exec_sealCmd_of_eq (h : s.blkLen.toNat = s.variant.blockBytes) : exec .sealCmd s = exec .encw s :=
  congrArg Host.Outcome.next (requireBlockLength_of_eq _ h)

/-- OPEN with the length BLOCK_BYTES is DECW (R168). -/
theorem exec_openCmd_of_eq (h : s.blkLen.toNat = s.variant.blockBytes) : exec .openCmd s = exec .decw s :=
  congrArg Host.Outcome.next (requireBlockLength_of_eq _ h)

end Outcomes

/-! ### The block in place -/

/-- BLKBUF after ENCW: its two block words replaced by Encrypt of them (R165). -/
def encryptedBuffer (v : Variant) (rk : Vector (Word v) v.rounds) (buf : Vector BusWord 4) : Vector BusWord 4 :=
  setBlock v buf (encryptWords rk (blkWordOf v buf 0) (blkWordOf v buf 1)).1
    (encryptWords rk (blkWordOf v buf 0) (blkWordOf v buf 1)).2

/-- BLKBUF after DECW: its two block words replaced by Decrypt of them (R166). -/
def decryptedBuffer (v : Variant) (rk : Vector (Word v) v.rounds) (buf : Vector BusWord 4) : Vector BusWord 4 :=
  setBlock v buf (decryptWords rk (blkWordOf v buf 0) (blkWordOf v buf 1)).1
    (decryptWords rk (blkWordOf v buf 0) (blkWordOf v buf 1)).2

section InPlace
variable (s : State)

theorem encryptBlock_blkbuf : s.encryptBlock.blkbuf = encryptedBuffer s.variant s.dp.rk s.blkbuf :=
  congrArg (fun b : Word s.variant × Word s.variant => setBlock s.variant s.blkbuf b.1 b.2)
    (encrypt_eq_encryptWords (s.blkWord 0) (s.blkWord 1) s.dp)

theorem decryptBlock_blkbuf : s.decryptBlock.blkbuf = decryptedBuffer s.variant s.dp.rk s.blkbuf :=
  congrArg (fun b : Word s.variant × Word s.variant => setBlock s.variant s.blkbuf b.1 b.2)
    (decrypt_eq_decryptWords (s.blkWord 0) (s.blkWord 1) s.dp)

/-- The end of an encryption: BLKBUF is new, and the datapath registers that the rounds used are UNSPECIFIED (R165). -/
theorem endsAs_encryptBlock :
    State.EndsAs 0 { s with blkbuf := encryptedBuffer s.variant s.dp.rk s.blkbuf } (s.encryptBlock.endCommand .ok) := by
  rw [← encryptBlock_blkbuf]
  exact endsAs_endCommand .ok { s with blkbuf := s.encryptBlock.blkbuf } s.encryptBlock.dp (encrypt_rk _ _ _)

/-- The end of a decryption: BLKBUF is new, and the datapath registers that the rounds used are UNSPECIFIED (R166). -/
theorem endsAs_decryptBlock :
    State.EndsAs 0 { s with blkbuf := decryptedBuffer s.variant s.dp.rk s.blkbuf } (s.decryptBlock.endCommand .ok) := by
  rw [← decryptBlock_blkbuf]
  exact endsAs_endCommand .ok { s with blkbuf := s.decryptBlock.blkbuf } s.decryptBlock.dp (decrypt_rk _ _ _)

end InPlace

/-! ### What the result depends on -/

theorem toList_map_toNat_injective {w n : Nat} :
    Function.Injective fun rk : Vector (BitVec w) n => rk.toList.map BitVec.toNat := fun _ _ h =>
  Vector.toList_inj.mp (List.map_injective_iff.mpr (fun _ _ => BitVec.eq_of_toNat_eq) h)

/-- A function of VARIANT, RK and BLKBUF has one value in two states that agree on the three. -/
theorem apply_rk_blkbuf_congr {α : Type} (f : (v : Variant) → Vector (Word v) v.rounds → Vector BusWord 4 → α) {s u : State}
    (hvar : u.variant = s.variant) (hrk : u.rkNats = s.rkNats) (hblk : u.blkbuf = s.blkbuf) :
    f u.variant u.dp.rk u.blkbuf = f s.variant s.dp.rk s.blkbuf := by
  rw [hblk]
  obtain ⟨v, d, _⟩ := s
  obtain ⟨v', d', _⟩ := u
  obtain rfl : v' = v := hvar
  have hkeys : d'.rk = d.rk := toList_map_toNat_injective hrk
  exact congrArg (f v' · _) hkeys

/-- What R169 calls the result of a cipher command, BLKBUF and ERR, is the same in both states. -/
def State.SameResult (s u : State) : Prop := u.blkbuf = s.blkbuf ∧ u.err = s.err

namespace State.SameResult
variable {s u s' u' : State}

theorem endCommand (h : u.blkbuf = s.blkbuf) (c : ErrCode) : (s.endCommand c).SameResult (u.endCommand c) := ⟨h, rfl⟩

theorem check (hgo : s'.SameResult u') (hblk : u.blkbuf = s.blkbuf) {p q : Prop} [Decidable p] [Decidable q] (hpq : p ↔ q)
    (c : ErrCode) : (if p then s' else s.endCommand c).SameResult (if q then u' else u.endCommand c) := by
  simp only [hpq]
  split_ifs
  exacts [hgo, endCommand hblk c]

theorem requireKey (hgo : s'.SameResult u') (hblk : u.blkbuf = s.blkbuf) (hkey : u.keyValid = s.keyValid) :
    (s.requireKey s').SameResult (u.requireKey u') := hgo.check hblk (by rw [hkey]) .noKey

theorem requireBlockLength (hgo : s'.SameResult u') (hblk : u.blkbuf = s.blkbuf) (hvar : u.variant = s.variant)
    (hlen : u.blkLen = s.blkLen) : (s.requireBlockLength s').SameResult (u.requireBlockLength u') :=
  hgo.check hblk (by rw [hvar, hlen]) .lenMismatch

end State.SameResult

/-- The cipher commands write neither RK nor KEY_VALID (R169). -/
theorem exec_cipher_keeps_key {i : Instr} (hi : i = .encw ∨ i = .decw ∨ i = .sealCmd ∨ i = .openCmd) {s t : State}
    (h : exec i s = .next t) : t.rkNats = s.rkNats ∧ t.keyValid = s.keyValid := by
  have hnokey : i ≠ .keyw ∧ i ≠ .keyb ∧ i ≠ .clrkey := by rcases hi with rfl | rfl | rfl | rfl <;> decide
  obtain ⟨hkeyw, hkeyb, hclr⟩ := hnokey
  exact ⟨by simpa [hkeyw, hkeyb, hclr] using exec_rkNats h, by simpa [hkeyw, hkeyb, hclr] using exec_keyValid h⟩

/-- From two states that agree on what it reads, a cipher command ends with the same result (R169). -/
theorem exec_cipher_sameResult {i : Instr} (hi : i = .encw ∨ i = .decw ∨ i = .sealCmd ∨ i = .openCmd) {s u : State}
    (hvar : u.variant = s.variant) (hrk : u.rkNats = s.rkNats) (hkey : u.keyValid = s.keyValid)
    (hblk : u.blkbuf = s.blkbuf) (hlen : i = .sealCmd ∨ i = .openCmd → u.blkLen = s.blkLen) :
    ∃ s' u' : State, exec i s = .next s' ∧ exec i u = .next u' ∧ s'.SameResult u' := by
  have hencbuf : u.encryptBlock.blkbuf = s.encryptBlock.blkbuf := by
    rw [encryptBlock_blkbuf, encryptBlock_blkbuf, apply_rk_blkbuf_congr encryptedBuffer hvar hrk hblk]
  have hdecbuf : u.decryptBlock.blkbuf = s.decryptBlock.blkbuf := by
    rw [decryptBlock_blkbuf, decryptBlock_blkbuf, apply_rk_blkbuf_congr decryptedBuffer hvar hrk hblk]
  have henc := (State.SameResult.endCommand hencbuf .ok).requireKey hblk hkey
  have hdec := (State.SameResult.endCommand hdecbuf .ok).requireKey hblk hkey
  rcases hi with rfl | rfl | rfl | rfl
  · exact ⟨_, _, rfl, rfl, henc⟩
  · exact ⟨_, _, rfl, rfl, hdec⟩
  · exact ⟨_, _, rfl, rfl, henc.requireBlockLength hblk hvar (hlen (.inl rfl))⟩
  · exact ⟨_, _, rfl, rfl, hdec.requireBlockLength hblk hvar (hlen (.inr rfl))⟩

/-! ### The statements -/

/-- Settles O22: the key check decides between the failure and the block encrypted in place; the example is evaluated. -/
theorem encwEncryptsTheBlock : Obligations.EncwEncryptsTheBlock :=
  ⟨by decide, fun s hkey => ⟨_, exec_encw_noKey hkey, endsAs_endCommand_self .noKey s⟩,
    fun s hkey => ⟨_, exec_encw_of_keyValid hkey, endsAs_encryptBlock s⟩, by decide +kernel⟩

/-- Settles O23: the key check decides between the failure and the block decrypted in place; the example is evaluated. -/
theorem decwDecryptsTheBlock : Obligations.DecwDecryptsTheBlock :=
  ⟨by decide, fun s hkey => ⟨_, exec_decw_noKey hkey, endsAs_endCommand_self .noKey s⟩,
    fun s hkey => ⟨_, exec_decw_of_keyValid hkey, endsAs_decryptBlock s⟩, by decide +kernel⟩

/-- Settles O24: the length check comes first, and past it SEAL is ENCW; the example is evaluated. -/
theorem sealEncryptsTheBufferOfTheRightLength : Obligations.SealEncryptsTheBufferOfTheRightLength :=
  ⟨by decide, fun s hlen => ⟨_, exec_sealCmd_of_ne hlen, endsAs_endCommand_self .lenMismatch s⟩,
    fun s hlen hkey => ⟨_, exec_sealCmd_noKey hkey hlen, endsAs_endCommand_self .noKey s⟩,
    fun s hlen hkey => ⟨_, (exec_sealCmd_of_eq hlen).trans (exec_encw_of_keyValid hkey), exec_encw_of_keyValid hkey,
      endsAs_encryptBlock s⟩,
    by decide +kernel⟩

/-- Settles O25: the length check comes first, and past it OPEN is DECW; the example is evaluated. -/
theorem openDecryptsTheBufferOfTheRightLength : Obligations.OpenDecryptsTheBufferOfTheRightLength :=
  ⟨by decide, fun s hlen => ⟨_, exec_openCmd_of_ne hlen, endsAs_endCommand_self .lenMismatch s⟩,
    fun s hlen hkey => ⟨_, exec_openCmd_noKey hkey hlen, endsAs_endCommand_self .noKey s⟩,
    fun s hlen hkey => ⟨_, (exec_openCmd_of_eq hlen).trans (exec_decw_of_keyValid hkey), exec_decw_of_keyValid hkey,
      endsAs_decryptBlock s⟩,
    by decide +kernel⟩

/-- Settles O27: the effects and the checks read VARIANT, RK, KEY_VALID, BLKBUF and BLK_LEN only, and no cipher command writes the key. -/
theorem cipherResultDependsOnBlockAndKeyOnly : Obligations.CipherResultDependsOnBlockAndKeyOnly := by
  intro i hi s u hvar hrk hkey hblk hlen
  obtain ⟨s', u', hs, hu, hbuf, herr⟩ := exec_cipher_sameResult hi hvar hrk hkey hblk hlen
  obtain ⟨hrk', hkey'⟩ := exec_cipher_keeps_key hi hs
  exact ⟨s', u', hs, hu, hbuf, herr, hrk', hkey'⟩

end Sys2Proof.Machine
end

section
/-! The error codes of the commands (60_exceptions.md R201 to R205): which check a command fails, and that a failure only
writes its code. -/

namespace Sys2Proof.Machine

/-- LEN_MISMATCH is what command `i` ends with in `s` (R202). -/
def State.HasWrongLength (s : State) (i : Instr) : Prop :=
  (i = .keyb ∧ s.keyLen.toNat ≠ s.variant.keyBytes) ∨
    ((i = .sealCmd ∨ i = .openCmd) ∧ s.blkLen.toNat ≠ s.variant.blockBytes)

/-- NO_KEY is what command `i` ends with in `s`: a length error of SEAL or OPEN comes before it (R203, R205). -/
def State.LacksKey (s : State) (i : Instr) : Prop :=
  s.keyValid = false ∧
    (i = .encw ∨ i = .decw ∨ ((i = .sealCmd ∨ i = .openCmd) ∧ s.blkLen.toNat = s.variant.blockBytes))

/-- How command `i` ends in `s`: it succeeds on the state its effect leaves, or it fails one check and ends where it began. -/
inductive State.Ends (s : State) (i : Instr) : Prop
  | ok (u : State) (hexec : exec i s = .next (u.endCommand .ok)) (hlen : ¬ s.HasWrongLength i) (hkey : ¬ s.LacksKey i)
  | lenMismatch (hexec : exec i s = .next (s.endCommand .lenMismatch)) (hlen : s.HasWrongLength i) (hkey : ¬ s.LacksKey i)
  | noKey (hexec : exec i s = .next (s.endCommand .noKey)) (hlen : ¬ s.HasWrongLength i) (hkey : s.LacksKey i)

section Ends
variable {s : State} {i : Instr} {u : State}

theorem not_hasWrongLength_words (hi : i = .encw ∨ i = .decw) : ¬ s.HasWrongLength i := by
  rcases hi with rfl | rfl <;> simp [State.HasWrongLength]

theorem lacksKey_words_iff (hi : i = .encw ∨ i = .decw) : s.LacksKey i ↔ s.keyValid = false := by
  rcases hi with rfl | rfl <;> simp [State.LacksKey]

theorem hasWrongLength_buffer_iff (hi : i = .sealCmd ∨ i = .openCmd) :
    s.HasWrongLength i ↔ s.blkLen.toNat ≠ s.variant.blockBytes := by
  rcases hi with rfl | rfl <;> simp [State.HasWrongLength]

theorem lacksKey_buffer_iff (hi : i = .sealCmd ∨ i = .openCmd) :
    s.LacksKey i ↔ s.keyValid = false ∧ s.blkLen.toNat = s.variant.blockBytes := by
  rcases hi with rfl | rfl <;> simp [State.LacksKey]

/-- ENCW and DECW make the key check alone (R165, R166). -/
theorem ends_of_requireKey (hi : i = .encw ∨ i = .decw) (h : exec i s = .next (s.requireKey (u.endCommand .ok))) :
    s.Ends i := by
  cases hkey : s.keyValid with
  | true =>
    rw [requireKey_of_keyValid _ hkey] at h
    exact .ok u h (not_hasWrongLength_words hi) (by simp [lacksKey_words_iff hi, hkey])
  | false =>
    rw [requireKey_of_not_keyValid _ hkey] at h
    exact .noKey h (not_hasWrongLength_words hi) ((lacksKey_words_iff hi).mpr hkey)

/-- SEAL and OPEN make the length check, and the key check past it (R167, R168). -/
theorem ends_of_requireBlockLength (hi : i = .sealCmd ∨ i = .openCmd)
    (h : exec i s = .next (s.requireBlockLength (s.requireKey (u.endCommand .ok)))) : s.Ends i := by
  by_cases hlen : s.blkLen.toNat = s.variant.blockBytes
  · have hright : ¬ s.HasWrongLength i := by simp [hasWrongLength_buffer_iff hi, hlen]
    rw [requireBlockLength_of_eq _ hlen] at h
    cases hkey : s.keyValid with
    | true =>
      rw [requireKey_of_keyValid _ hkey] at h
      exact .ok u h hright (by simp [lacksKey_buffer_iff hi, hkey])
    | false =>
      rw [requireKey_of_not_keyValid _ hkey] at h
      exact .noKey h hright ((lacksKey_buffer_iff hi).mpr ⟨hkey, hlen⟩)
  · rw [requireBlockLength_of_ne _ hlen] at h
    exact .lenMismatch h ((hasWrongLength_buffer_iff hi).mpr hlen) (by simp [lacksKey_buffer_iff hi, hlen])

end Ends

/-- Every command ends in one of the three ways. -/
theorem ends_exec (i : Instr) (s : State) : s.Ends i := by
  cases i with
  | keyw => exact .ok _ (exec_keyw s) (by simp [State.HasWrongLength]) (by simp [State.LacksKey])
  | clrkey => exact .ok _ (exec_clrkey s) (by simp [State.HasWrongLength]) (by simp [State.LacksKey])
  | keyb =>
    have hkey : ¬ s.LacksKey .keyb := by simp [State.LacksKey]
    by_cases hlen : s.keyLen.toNat = s.variant.keyBytes
    · exact .ok _ ((exec_keyb_of_eq hlen).trans (exec_keyw s)) (by simp [State.HasWrongLength, hlen]) hkey
    · exact .lenMismatch (exec_keyb_of_ne hlen) (.inl ⟨rfl, hlen⟩) hkey
  | encw => exact ends_of_requireKey (u := s.encryptBlock) (.inl rfl) rfl
  | decw => exact ends_of_requireKey (u := s.decryptBlock) (.inr rfl) rfl
  | sealCmd => exact ends_of_requireBlockLength (u := s.encryptBlock) (.inl rfl) rfl
  | openCmd => exact ends_of_requireBlockLength (u := s.decryptBlock) (.inr rfl) rfl

/-! ### The statements -/

/-- Settles O30: a command that does not succeed ends on the state it began with, as the shared raise operation does. -/
theorem raisingAnErrorChangesOnlyErrAndBusy : Obligations.RaisingAnErrorChangesOnlyErrAndBusy := by
  refine ⟨fun i s => ?_, fun code s => ⟨endsAs_endCommand_self code s, rfl, rfl, rfl, rfl, rfl, rfl, rfl, rfl⟩⟩
  cases ends_exec i s with
  | ok u hexec => exact ⟨_, hexec, fun herr => absurd rfl herr⟩
  | lenMismatch hexec => exact ⟨_, hexec, fun _ => endsAs_endCommand_self .lenMismatch s⟩
  | noKey hexec => exact ⟨_, hexec, fun _ => endsAs_endCommand_self .noKey s⟩

/-- Settles O31: the completion decodes before it checks anything, and SEAL and OPEN check the length before the key. -/
theorem errorPriority : Obligations.ErrorPriority :=
  ⟨fun s ⟨_, hdec⟩ => ⟨_, complete_of_decode_error hdec, endsAs_endCommand_self .illegalCmd s⟩,
    fun s hlen _ => ⟨⟨_, exec_sealCmd_of_ne hlen, endsAs_endCommand_self .lenMismatch s⟩,
      ⟨_, exec_openCmd_of_ne hlen, endsAs_endCommand_self .lenMismatch s⟩⟩⟩

/-- Settles O32: the three ways a command ends carry three different codes, each with its cause. -/
theorem errorCodesAndTheirCauses : Obligations.ErrorCodesAndTheirCauses := by
  intro i s
  cases ends_exec i s with
  | ok u hexec hlen hkey =>
    refine ⟨_, hexec, rfl, ?_⟩
    rw [endCommand_err]
    exact ⟨iff_of_false (by decide) hlen, iff_of_false (by decide) hkey, by decide, by decide⟩
  | lenMismatch hexec hlen hkey =>
    refine ⟨_, hexec, rfl, ?_⟩
    rw [endCommand_err]
    exact ⟨iff_of_true rfl hlen, iff_of_false (by decide) hkey, by decide, by decide⟩
  | noKey hexec hlen hkey =>
    refine ⟨_, hexec, rfl, ?_⟩
    rw [endCommand_err]
    exact ⟨iff_of_false (by decide) hlen, iff_of_true rfl hkey, by decide, by decide⟩

end Sys2Proof.Machine
end

section
/-! The reset event (70_reset_and_hazards.md R230, R231) and the host protocol while a command is pending (R236). -/

namespace Sys2Proof.Machine

/-- With FAULT = 0 and no completion due, a step takes the host's next transaction (20_memory.md R63). -/
theorem step_of_not_completionDue {s : State} {a : HostAction} {rest : List HostAction} (hf : s.fault = false)
    (hdue : s.completionDue = false) (hhost : s.host = a :: rest) :
    step s = ({ s with host := rest } : State).hostAct a := by
  simp [step, State.hostTurn, hf, hdue, hhost]

/-- With FAULT = 1 a step still takes a reset event (10_state.md R29). -/
theorem step_of_fault_reset {s : State} {rest : List HostAction} (hf : s.fault = true) (hhost : s.host = .reset :: rest) :
    step s = .next ({ s with host := rest } : State).applyReset := by
  simp [step, State.faultedTurn, hf, hhost]

/-- A reset event is the next step whether FAULT is 1 or it is 0, unless a completion comes first (log 16). -/
theorem step_reset {s : State} {rest : List HostAction} (hhost : s.host = .reset :: rest)
    (hfirst : s.fault = true ∨ s.completionDue = false) :
    step s = .next ({ s with host := rest } : State).applyReset := by
  rcases Bool.eq_false_or_eq_true s.fault with hf | hf
  · exact step_of_fault_reset hf hhost
  · exact step_of_not_completionDue hf (hfirst.resolve_left (by simp [hf])) hhost

/-- Settles O42: the step is `applyReset` once the event is taken from the host's list. -/
theorem resetEventResets : Obligations.ResetEventResets :=
  fun _ _ hhost hfirst => ⟨_, step_reset hhost hfirst, rfl, applyReset_busy _, applyReset_keyValid _, applyReset_err _,
    applyReset_keyLen _, applyReset_blkLen _⟩

/-- Settles O46: of the port's four rules for BUSY = 1, only those of another read and of a write end in a violation. -/
theorem hostProtocolWhileBusy : Obligations.HostProtocolWhileBusy := by
  intro s hb
  refine ⟨⟨_, hostRead_busy_id s hb, rfl, hb⟩, ⟨_, hostRead_busy_status s hb, rfl, hb⟩, ?_, ?_⟩
  · intro a h2 ha
    exact ⟨_, hostRead_busy_other s a h2 ha hb, violatingRead_fault s _⟩
  · intro a v ha
    exact ⟨_, hostWrite_busy s a v ha hb, violate_fault s⟩

end Sys2Proof.Machine
end

section
/-! The decoder's acceptances (30_encoding.md R70, R71): a CMD value is its two fields, and the word of a command is the only one that
decodes to it. -/

namespace Sys2Proof

/-- The two fields are the whole CMD value (30_encoding.md R70). -/
theorem cmdFields_ext {w w' : BusWord} (hrsv : cmdRsv w = cmdRsv w') (hop : cmdOp w = cmdOp w') : w = w' := by
  apply BitVec.eq_of_toNat_eq
  rw [toNat_eq_cmdRsv_cmdOp, toNat_eq_cmdRsv_cmdOp, hrsv, hop]

@[simp] theorem cmdRsv_encode (i : Instr) : cmdRsv (encode i) = 0 := by cases i <;> decide

@[simp] theorem cmdOp_encode (i : Instr) : cmdOp (encode i) = opcode i := by cases i <;> decide

/-- One row of the opcode map for each command (30_encoding.md R71). -/
theorem decodeOp_eq_ok_iff {op : Byte} {i : Instr} : decodeOp op = .ok i ↔ op = opcode i := by
  constructor
  · intro h
    apply BitVec.eq_of_toNat_eq
    unfold decodeOp at h
    split at h <;> cases h <;> assumption
  · rintro rfl
    cases i <;> rfl

theorem decode_eq_ok_iff {w : BusWord} {i : Instr} : decode w = .ok i ↔ w = encode i := by
  unfold decode
  split_ifs with hrsv
  · refine iff_of_false (by simp) ?_
    rintro rfl
    exact hrsv (cmdRsv_encode i)
  · rw [decodeOp_eq_ok_iff]
    constructor
    · intro hop
      exact cmdFields_ext ((not_not.mp hrsv).trans (cmdRsv_encode i).symm) (hop.trans (cmdOp_encode i).symm)
    · rintro rfl
      exact cmdOp_encode i

/-- Settles O1: the decoder reads RSV and OP, which are all of the word, and each opcode stands in one row. -/
theorem commandsAndCmdValuesAgree : Obligations.CommandsAndCmdValuesAgree :=
  ⟨fun _ _ => decode_eq_ok_iff.mpr rfl, fun _ _ => decode_eq_ok_iff.mp⟩

end Sys2Proof
end

section
/-! The block's invariant (10_state.md R27, R28, R32): it holds after reset, and a completion, an access and a reset event each keep it. -/

namespace Sys2Proof.Machine

theorem ErrCode.bits_toNat_le (c : ErrCode) : c.bits.toNat ≤ 3 := by cases c <;> decide

/-! ### The round keys of a loaded key -/

namespace State.KeyScheduled
variable {s t : State}

theorem of_not_keyValid (h : s.keyValid = false) : s.KeyScheduled := fun hkey => by simp [h] at hkey

theorem endCommand (h : s.KeyScheduled) (c : ErrCode) : (s.endCommand c).KeyScheduled := h

theorem loadKey (s : State) : s.loadKey.KeyScheduled := fun _ => ⟨s.keyWords, keySchedule_rk _ _⟩

theorem encryptBlock (h : s.KeyScheduled) : s.encryptBlock.KeyScheduled := fun hkey =>
  (h hkey).imp fun _ => (encrypt_rk _ _ _).trans

theorem decryptBlock (h : s.KeyScheduled) : s.decryptBlock.KeyScheduled := fun hkey =>
  (h hkey).imp fun _ => (decrypt_rk _ _ _).trans

/-- A check that fails leaves the key, and one that passes goes on. -/
theorem check (h : s.KeyScheduled) (hgo : t.KeyScheduled) {p : Prop} [Decidable p] (c : ErrCode) :
    (if p then t else s.endCommand c).KeyScheduled := by
  split_ifs
  exacts [hgo, h.endCommand c]

/-- A command loads a schedule, clears KEY_VALID, or leaves both KEY_VALID and RK. -/
theorem exec (h : s.KeyScheduled) {i : Instr} (hexec : Machine.exec i s = .next t) : t.KeyScheduled := by
  have hload := (loadKey s).endCommand .ok
  have henc := h.encryptBlock.endCommand .ok
  have hdec := h.decryptBlock.endCommand .ok
  cases i <;> cases hexec
  case keyw => exact hload
  case keyb => exact h.check hload .lenMismatch
  case encw => exact h.check henc .noKey
  case decw => exact h.check hdec .noKey
  case sealCmd => exact h.check (h.check henc .noKey) .lenMismatch
  case openCmd => exact h.check (h.check hdec .noKey) .lenMismatch
  case clrkey => exact of_not_keyValid rfl

end State.KeyScheduled

/-! ### The invariant -/

/-- The reset state has all three parts whatever FAULT is, and so has the state a reset event leaves. -/
theorem resetOf_inv (v : Variant) (e : Nat) : (State.resetOf v e).Inv := fun _ =>
  ⟨Nat.zero_le 3, fun hbusy => absurd hbusy Bool.false_ne_true, .of_not_keyValid rfl⟩

theorem applyReset_inv (s : State) : s.applyReset.Inv := fun _ => resetOf_inv s.variant s.draws rfl

theorem inv_of_fault {s : State} (h : s.fault = true) : s.Inv := fun hf => by simp [h] at hf

/-- A completion ends BUSY and writes a produced code. -/
theorem complete_inv {s t : State} (hinv : s.Inv) (h : s.complete = .next t) : t.Inv := by
  intro hf
  obtain ⟨-, -, hkey⟩ := hinv ((complete_fault h).symm.trans hf)
  refine ⟨?_, fun hbusy => by simp [complete_busy h] at hbusy, ?_⟩
  · obtain ⟨c, d, kv, bb, rfl⟩ := complete_ends h
    exact c.bits_toNat_le
  · rcases complete_cases h with ⟨i, -, hexec⟩ | ⟨-, rfl⟩
    · exact hkey.exec hexec
    · exact hkey.endCommand .illegalCmd

/-- An access that keeps the protocol writes no register of the invariant, but an issue, which writes PEND and the latched value together. -/
theorem hostAct_inv {a : HostAction} {s t : State} (hinv : s.Inv) (h : s.hostAct a = .next t) : t.Inv := by
  cases a with
  | read b =>
    rcases hostRead_cases h with ⟨-, v, rfl⟩ | ⟨-, v, rfl⟩ | ⟨-, rfl⟩ | ⟨-, rfl⟩
    · exact hinv
    · exact hinv
    · exact hinv
    · exact inv_of_fault (violatingRead_fault s b)
  | write b v =>
    rcases hostWrite_cases h with ⟨-, rfl⟩ | ⟨-, -, rfl⟩ | ⟨-, kl, bl, kb, bb, rfl⟩
    · exact inv_of_fault (violate_fault s)
    · intro hf
      obtain ⟨herr, -, hkey⟩ := hinv hf
      exact ⟨herr, fun _ => issue_pend v s, hkey⟩
    · exact hinv
  | poll =>
    cases h
    unfold State.hostPoll
    split_ifs
    · exact hinv
    · exact hinv
  | reset =>
    cases h
    exact applyReset_inv s

/-- Settles O54: each of the events a step can be keeps the invariant. -/
theorem everyStepKeepsTheBlockInvariant : Obligations.EveryStepKeepsTheBlockInvariant := by
  intro s t hinv h
  cases hf : s.fault with
  | true => exact inv_of_fault (step_keeps_fault h hf)
  | false =>
    rcases step_cases hf h with ⟨-, hcomp⟩ | ⟨-, -, rfl⟩ | ⟨-, a, rest, -, hact⟩
    · exact complete_inv hinv hcomp
    · exact hinv
    · exact hostAct_inv (s := { s with host := rest }) hinv hact

/-- Settles O55: ERR, BUSY and KEY_VALID are 0 after reset. -/
theorem resetHasTheBlockInvariant : Obligations.ResetHasTheBlockInvariant := ⟨resetOf_inv _ _, resetOf_inv⟩

end Sys2Proof.Machine
end

section
/-! A cipher command undone by its inverse (43_cipher_commands.md R166, R168): a block written over and then written back as it was read. -/

namespace Sys2Proof.Machine

/-! ### The block written and read -/

section Block
variable {v : Variant} (buf : Vector BusWord 4) (b0 b1 : Word v)

theorem blkWordOf_setBlock_zero : blkWordOf v (setBlock v buf b0 b1) 0 = b0 := by
  rw [setBlock, blkWordOf_setBlkWord_other v _ 1 b1 (by decide), blkWordOf_setBlkWord_same]

theorem blkWordOf_setBlock_one : blkWordOf v (setBlock v buf b0 b1) 1 = b1 := blkWordOf_setBlkWord_same v _ 1 b1

/-- A byte of a block word that was read is the byte of the buffer it was read from. -/
theorem extractLsb'_blkWordOf (j : Fin 2) {c : Nat} (hc : c < 4 * 4) (hlo : j * v.wordBytes ≤ c)
    (hhi : c < (j + 1) * v.wordBytes) :
    (blkWordOf v buf j).extractLsb' (8 * (c - j * v.wordBytes)) 8 = bufByte buf c hc := by
  rw [Nat.succ_mul] at hhi
  rw [← leEncode_getElem _ (c - j * v.wordBytes) (by omega), blkWordOf, leEncode_leDecode, Vector.getElem_ofFn]
  simp only [Nat.add_sub_cancel' hlo]

/-- Writing back the block that was read undoes every write of a block. -/
theorem setBlock_setBlock_blkWordOf : setBlock v (setBlock v buf b0 b1) (blkWordOf v buf 0) (blkWordOf v buf 1) = buf := by
  apply buf_ext
  intro c hc
  unfold setBlock
  simp only [bufByte_setBlkWord]
  split_ifs with h1 h0
  · exact extractLsb'_blkWordOf buf 1 hc h1.1 h1.2
  · exact extractLsb'_blkWordOf buf 0 hc h0.1 h0.2
  · rfl

variable (rk : Vector (Word v) v.rounds)

theorem decryptedBuffer_encryptedBuffer : decryptedBuffer v rk (encryptedBuffer v rk buf) = buf := by
  unfold decryptedBuffer encryptedBuffer
  rw [blkWordOf_setBlock_zero, blkWordOf_setBlock_one, decryptWords_encryptWords, setBlock_setBlock_blkWordOf]

theorem encryptedBuffer_decryptedBuffer : encryptedBuffer v rk (decryptedBuffer v rk buf) = buf := by
  unfold decryptedBuffer encryptedBuffer
  rw [blkWordOf_setBlock_zero, blkWordOf_setBlock_one, encryptWords_decryptWords, setBlock_setBlock_blkWordOf]

end Block

/-! ### Two commands in a row -/

section TwoCommands
variable {s t u : State}

/-- A command that writes BLKBUF, and one that writes back what a command of the same RK makes of it, end as `s`. -/
theorem endsAs_of_blkbuf_restored {f g : (v : Variant) → Vector (Word v) v.rounds → Vector BusWord 4 → Vector BusWord 4}
    (hgf : ∀ v rk buf, g v rk (f v rk buf) = buf) {c c' : BitVec 4}
    (ht : State.EndsAs c { s with blkbuf := f s.variant s.dp.rk s.blkbuf } t)
    (hu : State.EndsAs c' { t with blkbuf := g t.variant t.dp.rk t.blkbuf } u) : State.EndsAs c' s u := by
  obtain ⟨d, p, l, n, hrk, rfl⟩ := ht
  obtain ⟨d', p', l', n', hrk', rfl⟩ := hu
  refine ⟨d', p', l', n', hrk'.trans hrk, ?_⟩
  have hbuf : g s.variant d.rk (f s.variant s.dp.rk s.blkbuf) = s.blkbuf := by
    rw [show d.rk = s.dp.rk from hrk, hgf]
  simp only [hbuf]

/-- ENCW then DECW with a key loaded. -/
theorem exec_encw_decw (hkey : s.keyValid = true) :
    ∃ t u : State, exec .encw s = .next t ∧ t.blkLen = s.blkLen ∧ t.variant = s.variant ∧ exec .decw t = .next u ∧
      State.EndsAs 0 s u :=
  ⟨_, _, exec_encw_of_keyValid hkey, rfl, rfl, exec_decw_of_keyValid hkey,
    endsAs_of_blkbuf_restored (fun _ rk buf => decryptedBuffer_encryptedBuffer buf rk) (endsAs_encryptBlock s)
      (endsAs_decryptBlock _)⟩

/-- DECW then ENCW with a key loaded. -/
theorem exec_decw_encw (hkey : s.keyValid = true) :
    ∃ t u : State, exec .decw s = .next t ∧ exec .encw t = .next u ∧ State.EndsAs 0 s u :=
  ⟨_, _, exec_decw_of_keyValid hkey, exec_encw_of_keyValid hkey,
    endsAs_of_blkbuf_restored (fun _ rk buf => encryptedBuffer_decryptedBuffer buf rk) (endsAs_decryptBlock s)
      (endsAs_encryptBlock _)⟩

end TwoCommands

/-- Settles O26: the second command decrypts with the round keys the first one encrypted with, or the reverse; with the length right SEAL
and OPEN are ENCW and DECW. -/
theorem sealThenOpenRestoresTheBuffer : Obligations.SealThenOpenRestoresTheBuffer := by
  intro s hkey
  obtain ⟨t, u, henc, hlen, hvar, hdec, hends⟩ := exec_encw_decw hkey
  refine ⟨fun hright => ⟨t, u, (exec_sealCmd_of_eq hright).trans henc, ?_, hends⟩, ⟨t, u, henc, hdec, hends⟩,
    exec_decw_encw hkey⟩
  exact (exec_openCmd_of_eq (by rw [hlen, hvar, hright])).trans hdec

end Sys2Proof.Machine
end

section
/-! The published vectors (43_cipher_commands.md R164, 95_test_vectors.md section 2): the operands read off the registers they fill, whatever
the registers beyond the variant's own hold. -/

namespace Sys2Proof.Machine

section Operands
variable {v : Variant} {kb : Vector BusWord 8} {w : Vector (Word v) v.keyWords}

theorem keyWordsOf_eq (h : ∀ j, keyWordOf v kb j = w[j]) : keyWordsOf v kb = w := by
  apply Vector.ext
  intro j hj
  rw [keyWordsOf, Vector.getElem_ofFn]
  exact h ⟨j, hj⟩

/-- For W = 32 key word `j` is KEYBUF(j). -/
theorem keyWordsOf_eq_one (hv : v.wordBits = 32)
    (h : ∀ j : Fin v.keyWords, (kb[j.val]'(by have := v.keyWords_le; omega)).toNat = w[j].toNat) : keyWordsOf v kb = w :=
  keyWordsOf_eq fun j => BitVec.eq_of_toNat_eq (((keyWordView v kb j).2.1 hv).trans (h j))

/-- For W = 64 key word `j` is KEYBUF(2j + 1) above KEYBUF(2j). -/
theorem keyWordsOf_eq_two (hv : v.wordBits = 64)
    (h : ∀ j : Fin v.keyWords, (kb[2 * j.val + 1]'(by have := v.keyWords_le; omega)).toNat * 2 ^ 32 +
      (kb[2 * j.val]'(by have := v.keyWords_le; omega)).toNat = w[j].toNat) : keyWordsOf v kb = w :=
  keyWordsOf_eq fun j => BitVec.eq_of_toNat_eq (((keyWordView v kb j).2.2 hv).trans (h j))

variable {bb : Vector BusWord 4} {b0 b1 c0 c1 : Word v} {rk : Vector (Word v) v.rounds}

/-- For W = 32 the block is BLKBUF0 and BLKBUF1. -/
theorem encryptedBuffer_one (hv : v.wordBits = 32) (hb0 : bb[0].toNat = b0.toNat) (hb1 : bb[1].toNat = b1.toNat)
    (henc : encryptWords rk b0 b1 = (c0, c1)) :
    encryptedBuffer v rk bb = (bb.set 0 (c0.extractLsb' 0 32)).set 1 (c1.extractLsb' 0 32) := by
  have h0 : blkWordOf v bb 0 = b0 := BitVec.eq_of_toNat_eq (((blkWordOf_toNat v bb 0).2.1 hv).trans hb0)
  have h1 : blkWordOf v bb 1 = b1 := BitVec.eq_of_toNat_eq (((blkWordOf_toNat v bb 1).2.1 hv).trans hb1)
  rw [encryptedBuffer, h0, h1, henc, setBlock, setBlkWord_one v _ 1 _ hv, setBlkWord_one v _ 0 _ hv]
  rfl

/-- For W = 64 the block is the whole of BLKBUF. -/
theorem encryptedBuffer_two (hv : v.wordBits = 64) (hb0 : bb[1].toNat * 2 ^ 32 + bb[0].toNat = b0.toNat)
    (hb1 : bb[3].toNat * 2 ^ 32 + bb[2].toNat = b1.toNat) (henc : encryptWords rk b0 b1 = (c0, c1)) :
    encryptedBuffer v rk bb =
      #v[c0.extractLsb' 0 32, c0.extractLsb' 32 32, c1.extractLsb' 0 32, c1.extractLsb' 32 32] := by
  have h0 : blkWordOf v bb 0 = b0 := BitVec.eq_of_toNat_eq (((blkWordOf_toNat v bb 0).2.2 hv).trans hb0)
  have h1 : blkWordOf v bb 1 = b1 := BitVec.eq_of_toNat_eq (((blkWordOf_toNat v bb 1).2.2 hv).trans hb1)
  rw [encryptedBuffer, h0, h1, henc, setBlock, setBlkWord_two v _ 1 _ hv, setBlkWord_two v _ 0 _ hv]
  apply Vector.ext
  intro i hi
  interval_cases i <;> simp

end Operands

/-- With both lengths right, KEYB then SEAL from reset leave the block encrypted under the schedule of the key words (R164). -/
theorem resetOf_sealsTo (v : Variant) (e : Nat) {kb : Vector BusWord 8} {bb cipher : Vector BusWord 4} {kl bl : BusWord}
    {w : Vector (Word v) v.keyWords} (hkl : kl.toNat = v.keyBytes) (hbl : bl.toNat = v.blockBytes)
    (hw : keyWordsOf v kb = w) (henc : encryptedBuffer v (roundKeys v w) bb = cipher) :
    State.SealsTo { State.resetOf v e with keybuf := kb, keyLen := kl, blkbuf := bb, blkLen := bl } cipher := by
  let s : State := { State.resetOf v e with keybuf := kb, keyLen := kl, blkbuf := bb, blkLen := bl }
  let t := s.loadKey.endCommand .ok
  have hseal : exec .sealCmd t = .next (t.encryptBlock.endCommand .ok) :=
    (exec_sealCmd_of_eq (s := t) hbl).trans (exec_encw_of_keyValid rfl)
  have hrk : t.dp.rk = roundKeys v w := (keySchedule_rk _ _).trans (congrArg (roundKeys v) hw)
  refine ⟨t, _, (exec_keyb_of_eq hkl).trans (exec_keyw s), rfl, hseal, rfl, ?_⟩
  calc t.encryptBlock.blkbuf
      = encryptedBuffer v t.dp.rk bb := encryptBlock_blkbuf t
    _ = cipher := by rw [hrk, henc]

/-- Settles O29: the operands are the published words, and their encryption under the published key is evaluated. -/
theorem publishedVectorsAreReproduced : Obligations.PublishedVectorsAreReproduced := by
  intro e k b
  refine ⟨?_, ?_, ?_, ?_, ?_⟩
  · refine resetOf_sealsTo .speck64x96 e (w := #v[0x03020100, 0x0B0A0908, 0x13121110]) rfl rfl
      (keyWordsOf_eq_one rfl fun j => ?_)
      (encryptedBuffer_one (b0 := 0x736E6165) (b1 := 0x74614620) (c0 := 0x4175946C) (c1 := 0x9F7952EC) rfl rfl rfl
        (by decide +kernel))
    fin_cases j <;> rfl
  · refine resetOf_sealsTo .speck64x128 e (w := #v[0x03020100, 0x0B0A0908, 0x13121110, 0x1B1A1918]) rfl rfl
      (keyWordsOf_eq_one rfl fun j => ?_)
      (encryptedBuffer_one (b0 := 0x7475432D) (b1 := 0x3B726574) (c0 := 0x454E028B) (c1 := 0x8C6FA548) rfl rfl rfl
        (by decide +kernel))
    fin_cases j <;> rfl
  · refine resetOf_sealsTo .speck128x128 e (w := #v[0x0706050403020100, 0x0F0E0D0C0B0A0908]) rfl rfl
      (keyWordsOf_eq_two rfl fun j => ?_)
      (encryptedBuffer_two (b0 := 0x7469206564616D20) (b1 := 0x6C61766975716520) (c0 := 0x7860FEDF5C570D18)
        (c1 := 0xA65D985179783265) rfl rfl rfl (by decide +kernel))
    fin_cases j <;> simp [Variant.wordBits, Variant.wordBytes]
  · refine resetOf_sealsTo .speck128x192 e (w := #v[0x0706050403020100, 0x0F0E0D0C0B0A0908, 0x1716151413121110]) rfl rfl
      (keyWordsOf_eq_two rfl fun j => ?_)
      (encryptedBuffer_two (b0 := 0x43206F7420746E65) (b1 := 0x7261482066656968) (c0 := 0xF9BC185DE03C1886)
        (c1 := 0x1BE4CF3A13135566) rfl rfl rfl (by decide +kernel))
    fin_cases j <;> simp [Variant.wordBits, Variant.wordBytes]
  · refine resetOf_sealsTo .speck128x256 e
      (w := #v[0x0706050403020100, 0x0F0E0D0C0B0A0908, 0x1716151413121110, 0x1F1E1D1C1B1A1918]) rfl rfl
      (keyWordsOf_eq_two rfl (by decide))
      (encryptedBuffer_two (b0 := 0x202E72656E6F6F70) (b1 := 0x65736F6874206E49) (c0 := 0x4EEEB48D9C188F43)
        (c1 := 0x4109010405C0F53E) rfl rfl rfl (by decide +kernel))

end Sys2Proof.Machine
end

section
/-! The map of the window and the reads of an idle block (10_state.md R30, R32, 20_memory.md R54), and the transaction of a clock cycle
(R51). -/

namespace Sys2Proof.Machine

/-! ### The map -/

theorem regAt_regOffset (r : RegName) : regAt (regOffset r / 4) = some r := by
  cases r with
  | keybuf i => revert i; decide
  | blkbuf i => revert i; decide
  | _ => rfl

/-- Every named register has an offset of the window. -/
theorem offsetWf_regOffset (r : RegName) : offsetWf (regOffset r) = true := by
  cases r with
  | keybuf i => revert i; decide
  | blkbuf i => revert i; decide
  | _ => rfl

/-- A word index names one register at most. -/
theorem regOffset_of_regAt {a : Nat} {r : RegName} (h : regAt a = some r) : regOffset r = 4 * a := by
  unfold regAt at h
  split_ifs at h <;> cases h <;> simp only [regOffset] <;> omega

theorem regAt_eq_none_iff {a : Nat} : regAt a = none ↔ (5 ≤ a ∧ a ≤ 7) ∨ 20 ≤ a := by
  unfold regAt
  split_ifs <;> simp only [false_iff, true_iff] <;> omega

/-- Settles O36: the offsets are read off, and the map inverts them. -/
theorem windowMap : Obligations.WindowMap :=
  ⟨⟨rfl, rfl, rfl, rfl, rfl, fun _ => rfl, fun _ => rfl⟩, fun r => ⟨regAt_regOffset r, offsetWf_regOffset r⟩,
    fun _ _ => regOffset_of_regAt, fun _ _ => regAt_eq_none_iff⟩

/-! ### Reads while BUSY = 0 -/

/-- The value of a read while BUSY = 0, by the word index of its offset (20_memory.md R54). -/
theorem readValue_regAt (s : State) (a : Nat) :
    s.readValue (regAt a) =
      if a = 0 then idWord s.variant
      else if a = 1 then s.idleStatus
      else if a = 3 then s.keyLen
      else if a = 4 then s.blkLen
      else if h : 8 ≤ a ∧ a < 16 then s.keybuf[a - 8]'(by omega)
      else if h : 16 ≤ a ∧ a < 20 then s.blkbuf[a - 16]'(by omega)
      else 0 := by
  by_cases hnamed : a < 5
  · interval_cases a <;> rfl
  · unfold regAt
    iterate 9 rw [if_neg (by omega)]
    split_ifs <;> rfl

/-- The host's own record is no register: a read leaves the value of every read. -/
theorem readValue_observe (s : State) (b : Nat) (v : BusWord) (r : Option RegName) :
    (s.observe b v).readValue r = s.readValue r := by
  cases r with
  | none => rfl
  | some r => cases r <;> rfl

/-- Settles O37: a read answers the value of its word index, and leaves that value. -/
theorem idleReadsHaveNoSideEffect : Obligations.IdleReadsHaveNoSideEffect := by
  intro s a hidle ha
  refine ⟨s.readValue (regAt a), _, hostRead_idle s a ha hidle, rfl, ?_, readValue_regAt s a⟩
  rw [hostRead_idle (s.observe _ _) a ha hidle, readValue_observe]
  rfl

/-! ### STATUS -/

/-- The fields of STATUS while BUSY = 0, from bit 0 up (10_state.md R32). -/
theorem idleStatus_fields (s : State) :
    s.idleStatus.extractLsb' 0 1 = 0 ∧ s.idleStatus.extractLsb' 1 1 = BitVec.ofBool s.keyValid ∧
      s.idleStatus.extractLsb' 2 2 = 0 ∧ s.idleStatus.extractLsb' 4 4 = s.err ∧ s.idleStatus.extractLsb' 8 24 = 0 := by
  unfold State.idleStatus
  generalize s.err = err, s.keyValid = keyValid
  revert err keyValid
  decide

/-- Bit 0 of STATUS is 1 while BUSY = 1, and bits [31:8] are 0 (10_state.md R32; log 11), whatever is drawn for bits [7:1]. -/
theorem busyStatus_fields (event : Nat) :
    (busyStatus event).getLsbD 0 = true ∧ (busyStatus event).extractLsb' 8 24 = 0 := by
  unfold busyStatus
  generalize Config.draw event .statusRead 0 7 = free
  revert free
  decide

/-- Settles O34: the port's rules for offset 4, and the fields of the two values it gives. -/
theorem statusReadValue : Obligations.StatusReadValue :=
  ⟨fun s hidle => ⟨s.idleStatus, hostRead_idle s 1 (by decide) hidle, idleStatus_fields s⟩,
    fun s hbusy => ⟨busyStatus s.draws, s.lag - 1, s.draws + 1, hostRead_busy_status s hbusy, busyStatus_fields s.draws⟩,
    fun s w hidle => hostWrite_idle s 1 w (by decide) hidle⟩

/-! ### The port's signals -/

/-- Settles O40: `rst_n` is looked at first, then `sel`, then `we`. -/
theorem portCycleTransactions : Obligations.PortCycleTransactions := by
  rintro ⟨rstN, sel, we, addr, wdata⟩
  refine ⟨?_, ?_, ?_, ?_⟩
  · rintro rfl
    rfl
  · rintro rfl rfl
    rfl
  · rintro rfl rfl rfl
    rfl
  · rintro rfl rfl rfl
    rfl

end Sys2Proof.Machine
end

section
/-! One step at a time: when it is the completion and when the host's turn, what the port takes while BUSY = 0, and which steps
move BUSY, ERR and KEY_VALID (10_state.md R32, 60_exceptions.md R209, R210, R220, 70_reset_and_hazards.md R232 to R235). -/

namespace Sys2Proof.Machine

section Idle
variable {s : State} {a : Nat} {rest : List HostAction} (hidle : s.busy = false) (hf : s.fault = false)
include hidle

/-- No completion is due while BUSY = 0 (R233). -/
theorem completionDue_of_idle : s.completionDue = false := by simp [State.completionDue, hidle]

include hf

/-- A step of an idle block takes the host's next read. -/
theorem step_read_idle (ha : a < 64) (hhost : s.host = .read (4 * a) :: rest) :
    step s = .next (({ s with host := rest } : State).observe (4 * a) (s.readValue (regAt a))) := by
  rw [step_of_not_completionDue hf (completionDue_of_idle hidle) hhost]
  refine (hostRead_idle { s with host := rest } a ha hidle).trans ?_
  cases regAt a with
  | none => rfl
  | some r => cases r <;> rfl

/-- A step of an idle block takes the host's next write. -/
theorem step_write_idle (ha : a < 64) {v : BusWord} (hhost : s.host = .write (4 * a) v :: rest) :
    step s = .next (({ s with host := rest } : State).writeRegister (regAt a) v) := by
  rw [step_of_not_completionDue hf (completionDue_of_idle hidle) hhost]
  exact hostWrite_idle { s with host := rest } a v ha hidle

/-- The write of a CMD value to an idle block is its issue (R232). -/
theorem step_issue {v : BusWord} (hhost : s.host = .write 0x08 v :: rest) :
    step s = .next (({ s with host := rest } : State).issue v) :=
  step_write_idle (a := 2) hidle hf (by decide) hhost

/-- With no access to take an idle block holds its state (60_exceptions.md R220; log 21). -/
theorem step_nothing_to_do (hhost : s.host = []) : step s = .next s := by
  simp [step, State.hostTurn, hf, completionDue_of_idle hidle, hhost]

end Idle

/-- Settles O43: the write of a CMD value is taken, and what the issue does not name stays. -/
theorem issueSetsBusyAndLatchesTheCommand : Obligations.IssueSetsBusyAndLatchesTheCommand :=
  fun _ _ _ hhost hidle hf => ⟨_, _, step_issue hidle hf hhost⟩

/-- Settles O51: with BUSY = 0 no completion is due, and the host has nothing to take. -/
theorem idleBlockHoldsItsState : Obligations.IdleBlockHoldsItsState :=
  fun _ hidle hf hhost => step_nothing_to_do hidle hf hhost

/-- Settles O48: with FAULT = 1 only a reset event at the head of the host's list has a step. -/
theorem noMeaningAfterAProtocolViolation : Obligations.NoMeaningAfterAProtocolViolation := by
  intro s hf hnoreset
  rw [step, if_pos hf, State.faultedTurn]
  split
  · exact absurd ‹_› (hnoreset _)
  · rfl

/-! ### Completions -/

theorem completionDue_of_busy {s : State} (hbusy : s.busy = true) (hplace : s.lag = 0 ∨ s.host = []) :
    s.completionDue = true := by
  simpa [State.completionDue, hbusy] using hplace

theorem step_of_completionDue {s : State} (hf : s.fault = false) (hdue : s.completionDue = true) : step s = s.complete := by
  simp [step, hf, hdue]

theorem complete_of_decode_ok {s : State} {i : Instr} (h : decode s.cmdLatch = .ok i) : s.complete = exec i s := by
  rw [State.complete, h]

/-- Every completion answers a next state: each command ends, and so does an illegal CMD value. -/
theorem complete_answers (s : State) : ∃ t : State, s.complete = .next t := by
  cases h : decode s.cmdLatch with
  | ok i =>
    obtain ⟨c, d, kv, bb, hend⟩ := exec_ends i s
    exact ⟨_, (complete_of_decode_ok h).trans hend⟩
  | error e => exact ⟨_, complete_of_decode_error h⟩

/-- The CMD value of a table word that the decoder accepts decodes to its command. -/
theorem decode_of_decodeTableWord {nbits w : Nat} {i : Instr} (h : decodeTableWord nbits w = some i) :
    decode (BitVec.ofNat 32 (w % 2 ^ nbits)) = .ok i := by
  unfold decodeTableWord at h
  cases hd : decode (BitVec.ofNat 32 (w % 2 ^ nbits)) with
  | ok j => rw [hd] at h; cases h; rfl
  | error e => rw [hd] at h; cases h

/-- Settles O44: a due completion is the step, and it decodes the latched CMD value. -/
theorem stepRunsTheDecodedCommand : Obligations.StepRunsTheDecodedCommand := by
  refine ⟨fun s i hf hbusy hplace hdec => ?_, fun s e hf hbusy hplace hdec => ?_, fun s nbits w i hf hword => ?_⟩
  · have hstep := step_of_completionDue hf (completionDue_of_busy hbusy hplace)
    obtain ⟨t, ht⟩ := complete_answers s
    exact ⟨hstep.trans (complete_of_decode_ok hdec), t, hstep.trans ht, complete_busy ht⟩
  · have hstep := step_of_completionDue hf (completionDue_of_busy hbusy hplace)
    exact ⟨_, hstep.trans (complete_of_decode_error hdec), endsAs_endCommand_self .illegalCmd s⟩
  · have hstep := step_of_completionDue (s := s.withFetchWord nbits w) hf (completionDue_of_busy rfl (.inl rfl))
    exact hstep.trans (complete_of_decode_ok (s := s.withFetchWord nbits w) (decode_of_decodeTableWord hword))

/-! ### BUSY -/

/-- An access that keeps the protocol moves BUSY up only as a write of CMD, and down only as a reset event (R234). -/
theorem hostAct_busy {a : HostAction} {s t : State} (h : s.hostAct a = .next t) (hf : t.fault = false) :
    t.busy = s.busy ∨ (∃ v, a = .write 0x08 v ∧ t.busy = true) ∨ (a = .reset ∧ t.busy = false) := by
  cases a with
  | read b =>
    rcases hostRead_cases h with ⟨-, v, rfl⟩ | ⟨-, v, rfl⟩ | ⟨-, rfl⟩ | ⟨-, rfl⟩
    · exact .inl rfl
    · exact .inl rfl
    · exact .inl rfl
    · simp at hf
  | write b v =>
    rcases hostWrite_cases h with ⟨-, rfl⟩ | ⟨-, rfl, rfl⟩ | ⟨-, kl, bl, kb, bb, rfl⟩
    · simp at hf
    · exact .inr (.inl ⟨v, rfl, rfl⟩)
    · exact .inl rfl
  | poll =>
    cases h
    unfold State.hostPoll
    split_ifs
    · exact .inl rfl
    · exact .inl rfl
  | reset =>
    cases h
    exact .inr (.inr ⟨rfl, rfl⟩)

/-- Settles O45: a completion only ends BUSY, and of the accesses only an issue and a reset move it. -/
theorem busyChangesOnlyAtIssueAndCompletion : Obligations.BusyChangesOnlyAtIssueAndCompletion := by
  intro s t h hf hft
  rcases step_cases hf h with ⟨hdue, hcomp⟩ | ⟨-, -, rfl⟩ | ⟨-, a, rest, hhost, hact⟩
  · have hend := complete_busy hcomp
    exact ⟨fun _ ht => by simp [hend] at ht, fun _ _ => .inl hdue⟩
  · exact ⟨fun hs ht => by simp [hs] at ht, fun hs ht => by simp [hs] at ht⟩
  · rcases hostAct_busy hact hft with hsame | ⟨v, rfl, ht⟩ | ⟨rfl, ht⟩
    · replace hsame : t.busy = s.busy := hsame
      exact ⟨fun hs ht => by simp [hsame, hs] at ht, fun hs ht => by simp [hsame, hs] at ht⟩
    · exact ⟨fun _ _ => ⟨v, rest, hhost⟩, fun _ hno => by simp [ht] at hno⟩
    · exact ⟨fun _ hyes => by simp [ht] at hyes, fun _ _ => .inr ⟨rest, hhost⟩⟩

/-! ### ERR and KEY_VALID -/

/-- A completion lowers KEY_VALID only as the end of CLRKEY. -/
theorem complete_lowers_keyValid {s t : State} (h : s.complete = .next t) (hs : s.keyValid = true) (ht : t.keyValid = false) :
    decode s.cmdLatch = .ok .clrkey := by
  rcases complete_cases h with ⟨i, hi, hexec⟩ | ⟨-, rfl⟩
  · rcases exec_keyValid hexec with ⟨htrue, -⟩ | ⟨-, rfl⟩ | hsame
    · simp [ht] at htrue
    · exact hi
    · simp [hs, ht] at hsame
  · simp [hs] at ht

/-- Settles O35: a completion names the command that moved KEY_VALID, and no other event but a reset writes ERR or KEY_VALID. -/
theorem statusFieldsChangeOnlyAtCompletionOrReset : Obligations.StatusFieldsChangeOnlyAtCompletionOrReset := by
  intro s t h hf hft
  have hrise := step_raises_keyValid h hf hft
  rcases step_cases hf h with ⟨hdue, hcomp⟩ | ⟨-, -, rfl⟩ | ⟨-, a, rest, hhost, hact⟩
  · exact ⟨fun _ => .inl hdue, hrise, fun hs ht => .inl ⟨hdue, complete_lowers_keyValid hcomp hs ht⟩⟩
  · exact ⟨fun hne => absurd rfl hne, hrise, fun hs ht => by simp [hs] at ht⟩
  · rcases hostAct_keeps hact hft with rfl | ⟨herr, hkey, -⟩
    · exact ⟨fun _ => .inr ⟨rest, hhost⟩, hrise, fun _ _ => .inr ⟨rest, hhost⟩⟩
    · exact ⟨fun hne => absurd herr hne, hrise, fun hs ht => by simp [hkey, hs] at ht⟩

/-! ### Progress -/

/-- The accesses of a host that waits for a command: reads of ID and of STATUS, and POLL. -/
def HostAction.Waits (a : HostAction) : Prop := a = .read 0x00 ∨ a = .read 0x04 ∨ a = .poll

/-- While a completion is not due yet, an access of a waiting host brings it one nearer and leaves a waiting host (R235, log 18). -/
theorem step_waits {s : State} (hbusy : s.busy = true) (hf : s.fault = false) (hdue : s.completionDue = false)
    (hwait : ∀ a ∈ s.host, HostAction.Waits a) :
    ∃ t : State, step s = .next t ∧ t.busy = true ∧ t.fault = false ∧ t.lag + 1 = s.lag ∧
      ∀ a ∈ t.host, HostAction.Waits a := by
  have hlag : s.lag ≠ 0 := fun h => by simp [completionDue_of_busy hbusy (.inl h)] at hdue
  cases hhost : s.host with
  | nil => simp [completionDue_of_busy hbusy (.inr hhost)] at hdue
  | cons a rest =>
    rw [step_of_not_completionDue hf hdue hhost]
    rw [hhost] at hwait
    have hrest : ∀ b ∈ rest, HostAction.Waits b := fun b hb => hwait b (List.mem_cons_of_mem a hb)
    have hnear : s.lag - 1 + 1 = s.lag := Nat.succ_pred_eq_of_ne_zero hlag
    rcases hwait a List.mem_cons_self with rfl | rfl | rfl
    · exact ⟨_, hostRead_busy_id { s with host := rest } hbusy, hbusy, hf, hnear, hrest⟩
    · exact ⟨_, hostRead_busy_status { s with host := rest } hbusy, hbusy, hf, hnear, hrest⟩
    · refine ⟨_, congrArg Host.Outcome.next (if_pos hbusy), hbusy, hf, hnear, fun b hb => ?_⟩
      rcases List.mem_cons.mp hb with rfl | hb
      · exact .inr (.inr rfl)
      · exact hrest b hb

/-- The completion comes after at most `lag` waiting accesses. -/
theorem pending_completes {s : State} (hbusy : s.busy = true) (hf : s.fault = false)
    (hwait : ∀ a ∈ s.host, HostAction.Waits a) :
    ∃ (n : Nat) (t : State), n ≤ s.lag + 1 ∧ runWith step n s = .next t ∧ t.busy = false ∧ t.fault = false := by
  cases hdue : s.completionDue with
  | true =>
    obtain ⟨t, ht⟩ := complete_answers s
    refine ⟨1, t, Nat.le_add_left 1 s.lag, ?_, complete_busy ht, (complete_fault ht).trans hf⟩
    simp [runWith, step_of_completionDue hf hdue, ht]
  | false =>
    obtain ⟨u, hstep, hbusyu, hfu, hlag, hwaitu⟩ := step_waits hbusy hf hdue hwait
    obtain ⟨n, t, hn, hrun, hend⟩ := pending_completes hbusyu hfu hwaitu
    exact ⟨n + 1, t, by omega, by rw [runWith, hstep]; exact hrun, hend⟩
termination_by s.lag

/-- Settles O50: each waiting access brings the completion nearer, and the completion itself is one more step. -/
theorem pendingCommandCompletes : Obligations.PendingCommandCompletes := fun _ => pending_completes

end Sys2Proof.Machine
end

section
/-! What a host can see of a state, its settled form (10_state.md R40): each operation of a command, and so each command, takes states of
one settled form to states of one settled form. -/

namespace Sys2Proof.Machine

/-! ### The settled form after each operation, from the settled form before it -/

section Settled
variable (s : State)

theorem endCommand_settled (c : ErrCode) : (s.endCommand c).settled = { s.settled with busy := false, err := c.bits } := rfl

theorem loadKey_settled :
    s.loadKey.settled =
      { s.settled with dp := Datapath.ofKeys (roundKeys s.settled.variant s.settled.keyWords), keyValid := true } := by
  have hrk : s.loadKey.dp.rk = roundKeys s.settled.variant s.settled.keyWords := keySchedule_rk _ _
  rw [State.settled, hrk]
  rfl

theorem clearKey_settled :
    s.clearKey.settled = { s.settled with dp := Datapath.ofKeys (Vector.replicate _ 0), keyValid := false } := rfl

theorem encryptBlock_settled :
    s.encryptBlock.settled =
      { s.settled with blkbuf := encryptedBuffer s.settled.variant s.settled.dp.rk s.settled.blkbuf } := by
  have hrk : s.encryptBlock.dp.rk = s.dp.rk := encrypt_rk _ _ _
  rw [State.settled, hrk, encryptBlock_blkbuf]
  rfl

theorem decryptBlock_settled :
    s.decryptBlock.settled =
      { s.settled with blkbuf := decryptedBuffer s.settled.variant s.settled.dp.rk s.settled.blkbuf } := by
  have hrk : s.decryptBlock.dp.rk = s.dp.rk := decrypt_rk _ _ _
  rw [State.settled, hrk, decryptBlock_blkbuf]
  rfl

end Settled

/-! ### The checks and the commands -/

/-- `u` shows the host what `s` shows it. -/
def State.LooksLike (u s : State) : Prop := u.settled = s.settled

namespace State.LooksLike
variable {s u s' u' : State}

theorem endCommand (h : u.LooksLike s) (c : ErrCode) : (u.endCommand c).LooksLike (s.endCommand c) := by
  rw [State.LooksLike, endCommand_settled, endCommand_settled, h]

theorem loadKey (h : u.LooksLike s) : u.loadKey.LooksLike s.loadKey := by
  rw [State.LooksLike, loadKey_settled, loadKey_settled, h]

theorem clearKey (h : u.LooksLike s) : u.clearKey.LooksLike s.clearKey := by
  rw [State.LooksLike, clearKey_settled, clearKey_settled, h]

theorem encryptBlock (h : u.LooksLike s) : u.encryptBlock.LooksLike s.encryptBlock := by
  rw [State.LooksLike, encryptBlock_settled, encryptBlock_settled, h]

theorem decryptBlock (h : u.LooksLike s) : u.decryptBlock.LooksLike s.decryptBlock := by
  rw [State.LooksLike, decryptBlock_settled, decryptBlock_settled, h]

/-- A check reads one condition `p` of the settled form. -/
theorem check (h : u.LooksLike s) (hgo : u'.LooksLike s') (p : State → Prop) [DecidablePred p] (c : ErrCode) :
    (if p u.settled then u' else u.endCommand c).LooksLike (if p s.settled then s' else s.endCommand c) := by
  rw [h]
  split_ifs
  exacts [hgo, h.endCommand c]

theorem requireKey (h : u.LooksLike s) (hgo : u'.LooksLike s') : (u.requireKey u').LooksLike (s.requireKey s') :=
  h.check hgo (·.keyValid = true) .noKey

theorem requireKeyLength (h : u.LooksLike s) (hgo : u'.LooksLike s') :
    (u.requireKeyLength u').LooksLike (s.requireKeyLength s') :=
  h.check hgo (fun r => r.keyLen.toNat = r.variant.keyBytes) .lenMismatch

theorem requireBlockLength (h : u.LooksLike s) (hgo : u'.LooksLike s') :
    (u.requireBlockLength u').LooksLike (s.requireBlockLength s') :=
  h.check hgo (fun r => r.blkLen.toNat = r.variant.blockBytes) .lenMismatch

/-- From two states that look alike a command ends in two states that look alike. -/
theorem exec (h : u.LooksLike s) (i : Instr) :
    ∃ s' u' : State, Machine.exec i s = .next s' ∧ Machine.exec i u = .next u' ∧ u'.LooksLike s' := by
  have hload := h.loadKey.endCommand .ok
  have henc := h.encryptBlock.endCommand .ok
  have hdec := h.decryptBlock.endCommand .ok
  cases i with
  | keyw => exact ⟨_, _, rfl, rfl, hload⟩
  | keyb => exact ⟨_, _, rfl, rfl, h.requireKeyLength hload⟩
  | encw => exact ⟨_, _, rfl, rfl, h.requireKey henc⟩
  | decw => exact ⟨_, _, rfl, rfl, h.requireKey hdec⟩
  | sealCmd => exact ⟨_, _, rfl, rfl, h.requireBlockLength (h.requireKey henc)⟩
  | openCmd => exact ⟨_, _, rfl, rfl, h.requireBlockLength (h.requireKey hdec)⟩
  | clrkey => exact ⟨_, _, rfl, rfl, h.clearKey.endCommand .ok⟩

end State.LooksLike

/-- Settles O28: the settled form holds all that the effects and the checks of a command read. -/
theorem unspecifiedRegistersNeverShow : Obligations.UnspecifiedRegistersNeverShow := fun i _ _ h =>
  State.LooksLike.exec h i

end Sys2Proof.Machine
end

section
/-! The atomic model against the two-step model (70_reset_and_hazards.md R238): from states that look alike, each part of a polite host
program takes the two machines to states that look alike. -/

namespace Sys2Proof.Machine

/-! ### Runs -/

/-- `t` is where some number of steps of `f` leads from `s`. -/
def Reaches (f : State → Result) (s t : State) : Prop := ∃ n, runWith f n s = .next t

theorem runWith_add {f : State → Result} {n : Nat} {s t : State} (h : runWith f n s = .next t) (m : Nat) :
    runWith f (n + m) s = runWith f m t := by
  induction n generalizing s with
  | zero =>
    cases h
    rw [Nat.zero_add]
  | succ n ih =>
    rw [Nat.succ_add]
    simp only [runWith] at h ⊢
    cases hstep : f s with
    | next u => exact ih (by simpa only [hstep] using h)
    | fault r => simp only [hstep, reduceCtorEq] at h
    | refused r => simp only [hstep, reduceCtorEq] at h

namespace Reaches
variable {f : State → Result} {s t u : State}

theorem refl (s : State) : Reaches f s s := ⟨0, rfl⟩

theorem trans (h : Reaches f s t) (h' : Reaches f t u) : Reaches f s u := by
  obtain ⟨n, hn⟩ := h
  obtain ⟨m, hm⟩ := h'
  exact ⟨n + m, (runWith_add hn m).trans hm⟩

theorem single (h : f s = .next t) : Reaches f s t := ⟨1, by simp only [runWith, h]⟩

theorem head (h : f s = .next t) (h' : Reaches f t u) : Reaches f s u := (single h).trans h'

end Reaches

/-! ### Steps of the atomic machine -/

/-- A step that leaves BUSY = 0 is a step of both machines. -/
theorem atomicStep_of_idle {s t : State} (h : step s = .next t) (hidle : t.busy = false) : atomicStep s = .next t := by
  simp [atomicStep, h, hidle]

/-- An issue of the two-step machine is followed by its completion at once (R238). -/
theorem atomicStep_of_issue {s t : State} (h : step s = .next t) (hbusy : t.busy = true) (hf : t.fault = false) :
    atomicStep s = t.complete := by
  simp [atomicStep, h, hbusy, hf]

/-! ### The settled form after each access -/

section Settled
variable (s : State)

theorem host_settled (l : List HostAction) : ({ s with host := l } : State).settled = { s.settled with host := l } := rfl

theorem issue_settled (v : BusWord) : (s.issue v).settled = { s.settled with busy := true } := rfl

theorem observe_settled (b : Nat) (v : BusWord) :
    (s.observe b v).settled =
      { s.settled with observed := [ReadValue.mk b v].filter (fun r => !r.isBusyPoll) ++ s.settled.observed } := by
  simp only [State.settled, State.observe, ← List.filter_append, List.singleton_append]

theorem readValue_settled (r : Option RegName) : s.settled.readValue r = s.readValue r := by
  cases r with
  | none => rfl
  | some r => cases r <;> rfl

theorem writeRegister_settled {r : Option RegName} (hr : r ≠ some .cmd) (v : BusWord) :
    (s.writeRegister r v).settled = s.settled.writeRegister r v := by
  cases r with
  | none => rfl
  | some r =>
    cases r with
    | cmd => exact absurd rfl hr
    | _ => rfl

/-- The reads of POLL that return BUSY = 1 are left out of the settled form. -/
theorem isBusyPoll_busyStatus (event : Nat) : (ReadValue.mk 0x04 (busyStatus event)).isBusyPoll = true := by
  obtain ⟨hbit, -⟩ := busyStatus_fields event
  rw [ReadValue.isBusyPoll, hbit]
  rfl

theorem readBusyStatus_settled : s.readBusyStatus.settled = s.settled := by
  have hobs : s.readBusyStatus.settled = (s.observe 0x04 (busyStatus s.draws)).settled := rfl
  rw [hobs, observe_settled, List.filter_singleton, isBusyPoll_busyStatus]
  rfl

end Settled

/-- A write of another register than CMD issues nothing, breaks nothing, and is no business of the host's list. -/
theorem writeRegister_frame (s : State) {r : Option RegName} (hr : r ≠ some .cmd) (v : BusWord) :
    (s.writeRegister r v).busy = s.busy ∧ (s.writeRegister r v).fault = s.fault ∧ (s.writeRegister r v).host = s.host := by
  cases r with
  | none => exact ⟨rfl, rfl, rfl⟩
  | some r =>
    cases r with
    | cmd => exact absurd rfl hr
    | _ => exact ⟨rfl, rfl, rfl⟩

namespace State.LooksLike
variable {s u : State}

theorem trans {r : State} (h : u.LooksLike s) (h' : s.LooksLike r) : u.LooksLike r := Eq.trans h h'

theorem withHost (h : u.LooksLike s) (l : List HostAction) :
    ({ u with host := l } : State).LooksLike { s with host := l } := by
  rw [State.LooksLike, host_settled u l, host_settled s l, h]

theorem issue (h : u.LooksLike s) (v : BusWord) : (u.issue v).LooksLike (s.issue v) := by
  rw [State.LooksLike, issue_settled, issue_settled, h]

theorem readValue (h : u.LooksLike s) (r : Option RegName) : u.readValue r = s.readValue r := by
  rw [← readValue_settled u, h, readValue_settled]

theorem observe (h : u.LooksLike s) (b : Nat) (v : BusWord) : (u.observe b v).LooksLike (s.observe b v) := by
  rw [State.LooksLike, observe_settled, observe_settled, h]

theorem writeRegister (h : u.LooksLike s) {r : Option RegName} (hr : r ≠ some .cmd) (v : BusWord) :
    (u.writeRegister r v).LooksLike (s.writeRegister r v) := by
  rw [State.LooksLike, writeRegister_settled u hr, writeRegister_settled s hr, h]

/-- Two completions of one CMD value, from states that look alike. -/
theorem complete (h : u.LooksLike s) (hlatch : u.cmdLatch = s.cmdLatch) {s' : State} (hs : s.complete = .next s') :
    ∃ u' : State, u.complete = .next u' ∧ u'.LooksLike s' := by
  rcases complete_cases hs with ⟨i, hi, hexec⟩ | ⟨⟨e, he⟩, rfl⟩
  · obtain ⟨t, u', ht, hu', hlike⟩ := h.exec i
    cases hexec.symm.trans ht
    exact ⟨u', (complete_of_decode_ok (hlatch.symm ▸ hi)).trans hu', hlike⟩
  · exact ⟨_, complete_of_decode_error (hlatch.symm ▸ he), h.endCommand .illegalCmd⟩

end State.LooksLike

/-! ### POLL -/

theorem complete_host {s t : State} (h : s.complete = .next t) : t.host = s.host := by
  obtain ⟨_, _, _, _, rfl⟩ := complete_ends h
  rfl

/-- While BUSY = 0 the loop of POLL ends with its first read (30_encoding.md R82). -/
theorem step_poll_idle {s : State} {rest : List HostAction} (hidle : s.busy = false) (hf : s.fault = false)
    (hhost : s.host = .poll :: rest) :
    step s = .next (({ s with host := rest } : State).observe 0x04 (s.readValue (some .status))) := by
  rw [step_of_not_completionDue hf (completionDue_of_idle hidle) hhost]
  exact congrArg Host.Outcome.next (if_neg (by simp [hidle]))

/-- POLL waits for the completion, which finds a state that looks as the command's issue left it, and its CMD value. -/
theorem poll_reaches_completion {s : State} {rest : List HostAction} (hbusy : s.busy = true) (hf : s.fault = false)
    (hhost : s.host = .poll :: rest) :
    ∃ p t : State, s.LooksLike p ∧ s.cmdLatch = p.cmdLatch ∧ p.complete = .next t ∧ Reaches step s t := by
  cases hdue : s.completionDue with
  | true =>
    obtain ⟨t, ht⟩ := complete_answers s
    exact ⟨s, t, rfl, rfl, ht, .single ((step_of_completionDue hf hdue).trans ht)⟩
  | false =>
    let r : State := { s with host := rest }
    let u : State := { r.readBusyStatus with host := .poll :: rest }
    have hstep : step s = .next u :=
      (step_of_not_completionDue hf hdue hhost).trans (congrArg Host.Outcome.next (if_pos hbusy))
    have hlike : s.LooksLike u := by
      calc s.settled = { r.settled with host := .poll :: rest } := by rw [← hhost]; rfl
        _ = u.settled := by rw [host_settled r.readBusyStatus, readBusyStatus_settled]
    have hlag : s.lag ≠ 0 := fun h => by simp [completionDue_of_busy hbusy (.inl h)] at hdue
    have hless : u.lag < s.lag := Nat.pred_lt hlag
    obtain ⟨p, t, hp, hlatch, hcomp, hreach⟩ := poll_reaches_completion (s := u) hbusy hf rfl
    exact ⟨p, t, hlike.trans hp, hlatch, hcomp, .head hstep hreach⟩
termination_by s.lag

/-! ### One part of a polite program -/

/-- The two machines stand at the same place of the host's program: they look alike, and the block is idle. -/
structure Matched (s u : State) : Prop where
  like : u.LooksLike s
  idle : s.busy = false
  safe : s.fault = false

/-- Both machines run to places that match again, with `rest` of the program to come. -/
def Advances (s u : State) (rest : List HostAction) : Prop :=
  ∃ s' u' : State, Reaches step s s' ∧ Reaches atomicStep u u' ∧ Matched s' u' ∧ s'.host = rest

namespace Matched
variable {s u : State} (h : Matched s u)
include h

theorem idle' : u.busy = false := (congrArg State.busy h.like).trans h.idle

theorem safe' : u.fault = false := (congrArg State.fault h.like).trans h.safe

theorem host' {l : List HostAction} (hhost : s.host = l) : u.host = l := (congrArg State.host h.like).trans hhost

variable {rest : List HostAction}

/-- A read that both machines take in one step, each with its own value of register `r`. -/
theorem advances_of_observe {b : Nat} {r : Option RegName}
    (hs : step s = .next (({ s with host := rest } : State).observe b (s.readValue r)))
    (hu : step u = .next (({ u with host := rest } : State).observe b (u.readValue r))) : Advances s u rest := by
  rw [h.like.readValue] at hu
  exact ⟨_, _, .single hs, .single (atomicStep_of_idle hu h.idle'),
    ⟨(h.like.withHost rest).observe b _, h.idle, h.safe⟩, rfl⟩

theorem advances_read {a : Nat} (ha : a < 64) (hhost : s.host = .read (4 * a) :: rest) : Advances s u rest :=
  h.advances_of_observe (step_read_idle h.idle h.safe ha hhost) (step_read_idle h.idle' h.safe' ha (h.host' hhost))

theorem advances_poll (hhost : s.host = .poll :: rest) : Advances s u rest :=
  h.advances_of_observe (step_poll_idle h.idle h.safe hhost) (step_poll_idle h.idle' h.safe' (h.host' hhost))

/-- A write of another register than CMD is one step of either machine. -/
theorem advances_write {a : Nat} (ha : a < 64) (hcmd : a ≠ 2) {v : BusWord} (hhost : s.host = .write (4 * a) v :: rest) :
    Advances s u rest := by
  have hr : regAt a ≠ some .cmd := mt regAt_eq_cmd.mp hcmd
  obtain ⟨hbusy, hfault, hrest⟩ := writeRegister_frame { s with host := rest } hr v
  obtain ⟨hbusy', -, -⟩ := writeRegister_frame { u with host := rest } hr v
  exact ⟨_, _, .single (step_write_idle h.idle h.safe ha hhost),
    .single (atomicStep_of_idle (step_write_idle h.idle' h.safe' ha (h.host' hhost)) (hbusy'.trans h.idle')),
    ⟨(h.like.withHost rest).writeRegister hr v, hbusy.trans h.idle, hfault.trans h.safe⟩, hrest⟩

/-- A CMD write followed by POLL: the atomic machine completes at the write what the two-step machine completes during POLL. -/
theorem advances_run {v : BusWord} (hhost : s.host = .write 0x08 v :: .poll :: rest) : Advances s u rest := by
  have hissue := step_issue h.idle h.safe hhost
  have hissue' := step_issue h.idle' h.safe' (h.host' hhost)
  have hlike := (h.like.withHost (.poll :: rest)).issue v
  obtain ⟨p, t, hp, hlatch, hcomp, hreach⟩ :=
    poll_reaches_completion (s := ({ s with host := .poll :: rest } : State).issue v) rfl h.safe rfl
  obtain ⟨t', hcomp', hlike'⟩ := (hlike.trans hp).complete hlatch hcomp
  have hsafe : t.fault = false := (complete_fault hcomp).trans ((congrArg State.fault hp).symm.trans h.safe)
  have hpoll : t.host = .poll :: rest := (complete_host hcomp).trans (congrArg State.host hp).symm
  obtain ⟨s', u', hs', hu', hmatched, hrest⟩ := advances_poll ⟨hlike', complete_busy hcomp, hsafe⟩ hpoll
  exact ⟨s', u', .head hissue (hreach.trans hs'),
    .head ((atomicStep_of_issue hissue' rfl h.safe').trans hcomp') hu', hmatched, hrest⟩

end Matched

theorem word_of_offsetWf {b : Nat} (h : offsetWf b = true) : ∃ a < 64, b = 4 * a := by
  simp only [offsetWf, Bool.and_eq_true, beq_iff_eq, decide_eq_true_eq] at h
  exact ⟨b / 4, by omega, by omega⟩

/-- Any part of a polite program keeps the two machines matched. -/
theorem Matched.advances_part {s u : State} (h : Matched s u) {q : PoliteStep} (hq : q.wf = true) {rest : List HostAction}
    (hhost : s.host = q.actions ++ rest) : Advances s u rest := by
  cases q with
  | read b =>
    obtain ⟨a, ha, rfl⟩ := word_of_offsetWf hq
    exact h.advances_read ha hhost
  | write b v =>
    obtain ⟨hoff, hcmd⟩ := Bool.and_eq_true_iff.mp hq
    obtain ⟨a, ha, rfl⟩ := word_of_offsetWf hoff
    exact h.advances_write ha (by rintro rfl; simp at hcmd) hhost
  | run v => exact h.advances_run hhost

/-- A whole polite program keeps the two machines matched, and they take all of it. -/
theorem Matched.advances_program {p : List PoliteStep} (hp : ∀ q ∈ p, q.wf = true) {s u : State} (h : Matched s u)
    (hhost : s.host = p.flatMap PoliteStep.actions) : Advances s u [] := by
  induction p generalizing s u with
  | nil => exact ⟨s, u, .refl s, .refl u, h, hhost⟩
  | cons q p ih =>
    obtain ⟨s', u', hs, hu, h', hrest⟩ := h.advances_part (hp q List.mem_cons_self) hhost
    obtain ⟨t, w, ht, hw, hmatched, hend⟩ := ih (fun q hq => hp q (List.mem_cons_of_mem _ hq)) h' hrest
    exact ⟨t, w, hs.trans ht, hu.trans hw, hmatched, hend⟩

/-- Settles O56: both machines start in the one state, part after part keeps them matched, and with the program taken both are idle. -/
theorem atomicModelReadsTheSame : Obligations.AtomicModelReadsTheSame := by
  intro s p hidle hf hp hhost
  obtain ⟨t, u, ⟨n, ht⟩, ⟨m, hu⟩, h, hend⟩ := Matched.advances_program hp (s := s) (u := s) ⟨rfl, hidle, hf⟩ hhost
  exact ⟨n, m, t, u, ht, hu, ⟨hend, h.idle, h.safe⟩, ⟨h.host' hend, h.idle', h.safe'⟩, h.like.symm⟩

end Sys2Proof.Machine
end

section
/-! The host's loads (30_encoding.md R83, R84): a run of register writes on an idle block, and the bytes and words it leaves in a buffer. -/

namespace Sys2Proof.Machine

/-! ### A run of writes -/

/-- A run that leads to an idle block takes one more write. -/
theorem Reaches.then_write {s t : State} (h : Reaches step s t) (hidle : t.busy = false) (hf : t.fault = false) {a : Nat}
    (ha : a < 64) {v : BusWord} {rest : List HostAction} (hhost : t.host = .write (4 * a) v :: rest) :
    Reaches step s (({ t with host := rest } : State).writeRegister (regAt a) v) :=
  h.trans (.single (step_write_idle hidle hf ha hhost))

/-- `buf` with the registers `ws` written from register `i` upward. -/
def storeFrom {m : Nat} (buf : Vector BusWord m) (i : Nat) : List BusWord → Vector BusWord m
  | [] => buf
  | w :: ws => storeFrom (buf.setIfInBounds i w) (i + 1) ws

/-- A write to a register of the buffer. -/
theorem storeFrom_cons {m : Nat} (buf : Vector BusWord m) {i : Nat} (hi : i < m) (w : BusWord) (ws : List BusWord) :
    storeFrom buf i (w :: ws) = storeFrom (buf.set i w) (i + 1) ws := by
  have hset : buf.setIfInBounds i w = buf.set i w :=
    Vector.ext fun r hr => by rw [Vector.getElem_setIfInBounds, Vector.getElem_set]
  rw [storeFrom, hset]

theorem storeFrom_getElem {m : Nat} (buf : Vector BusWord m) (i : Nat) (ws : List BusWord) (r : Nat) (hr : r < m) :
    (storeFrom buf i ws)[r] = if i ≤ r then ws[r - i]?.getD buf[r] else buf[r] := by
  induction ws generalizing buf i with
  | nil => simp [storeFrom]
  | cons w ws ih =>
    rw [storeFrom, ih, Vector.getElem_setIfInBounds]
    obtain hlt | rfl | hgt := Nat.lt_trichotomy r i
    · rw [if_neg (by omega), if_neg (by omega), if_neg (by omega)]
    · simp
    · have hnext : r - i = r - (i + 1) + 1 := by omega
      rw [if_pos (by omega), if_neg (by omega), if_pos (by omega), hnext, List.getElem?_cons_succ]

/-- Writes from word index `a + i` upward store their list, where one write at index `a + i` sets register `i` of the buffer of `put`. -/
theorem reaches_storeFrom {m a : Nat} {put : Vector BusWord m → List HostAction → State}
    (hput : ∀ buf i w rest (hi : i < m), step (put buf (.write (4 * (a + i)) w :: rest)) = .next (put (buf.set i w) rest))
    {ws : List BusWord} {i : Nat} (hi : i + ws.length ≤ m) (buf : Vector BusWord m) (rest : List HostAction) :
    Reaches step (put buf (writesFrom (4 * (a + i)) ws ++ rest)) (put (storeFrom buf i ws) rest) := by
  induction ws generalizing buf i with
  | nil => exact .refl _
  | cons w ws ih =>
    rw [List.length_cons] at hi
    rw [storeFrom_cons buf (by omega)]
    exact .head (hput buf i w _ (by omega)) (ih (i := i + 1) (by omega) _)

theorem regAt_keybuf (i : Fin 8) : regAt (8 + i) = some (.keybuf i) := by
  revert i
  decide

theorem regAt_blkbuf (i : Fin 4) : regAt (16 + i) = some (.blkbuf i) := by
  revert i
  decide

/-- `s` with `buf` in KEYBUF and the transactions `l` still to come. -/
def State.withKeybuf (s : State) (buf : Vector BusWord 8) (l : List HostAction) : State := { s with keybuf := buf, host := l }

/-- `s` with `buf` in BLKBUF and the transactions `l` still to come. -/
def State.withBlkbuf (s : State) (buf : Vector BusWord 4) (l : List HostAction) : State := { s with blkbuf := buf, host := l }

section Loads
variable {s : State} (hidle : s.busy = false) (hf : s.fault = false) {ws : List BusWord} {rest : List HostAction}
include hidle hf

theorem step_write_keybuf (buf : Vector BusWord 8) (i : Nat) (w : BusWord) (rest : List HostAction) (hi : i < 8) :
    step (s.withKeybuf buf (.write (4 * (8 + i)) w :: rest)) = .next (s.withKeybuf (buf.set i w) rest) := by
  refine (step_write_idle (s := s.withKeybuf buf _) hidle hf (by omega) rfl).trans ?_
  rw [regAt_keybuf ⟨i, hi⟩]
  rfl

theorem step_write_blkbuf (buf : Vector BusWord 4) (i : Nat) (w : BusWord) (rest : List HostAction) (hi : i < 4) :
    step (s.withBlkbuf buf (.write (4 * (16 + i)) w :: rest)) = .next (s.withBlkbuf (buf.set i w) rest) := by
  refine (step_write_idle (s := s.withBlkbuf buf _) hidle hf (by omega) rfl).trans ?_
  rw [regAt_blkbuf ⟨i, hi⟩]
  rfl

/-- The writes of a load of KEYBUF store its registers. -/
theorem reaches_keybuf (hws : ws.length ≤ 8) (hhost : s.host = writesFrom (regOffset (.keybuf 0)) ws ++ rest) :
    Reaches step s (s.withKeybuf (storeFrom s.keybuf 0 ws) rest) := by
  have h := reaches_storeFrom (step_write_keybuf hidle hf) (i := 0) (by omega) s.keybuf rest (ws := ws)
  rwa [show writesFrom (4 * (8 + 0)) ws ++ rest = s.host from hhost.symm] at h

/-- The writes of a load of BLKBUF store its registers. -/
theorem reaches_blkbuf (hws : ws.length ≤ 4) (hhost : s.host = writesFrom (regOffset (.blkbuf 0)) ws ++ rest) :
    Reaches step s (s.withBlkbuf (storeFrom s.blkbuf 0 ws) rest) := by
  have h := reaches_storeFrom (step_write_blkbuf hidle hf) (i := 0) (by omega) s.blkbuf rest (ws := ws)
  rwa [show writesFrom (4 * (16 + 0)) ws ++ rest = s.host from hhost.symm] at h

end Loads

/-! ### Byte strings -/

/-- A byte of a decoded byte string (40_word_ops.md R101). -/
theorem extractLsb'_leDecode {n : Nat} (b : Vector Byte n) {k : Nat} (hk : k < n) :
    (leDecode b).extractLsb' (8 * k) 8 = b[k] := by
  rw [← leEncode_getElem _ k hk, leEncode_leDecode]

theorem packBytes_length (bytes : List Byte) : (packBytes bytes).length = (bytes.length + 3) / 4 := by
  fun_induction packBytes bytes with
  | case1 => rfl
  | case2 => simp
  | case3 => simp
  | case4 => simp
  | case5 a b c d rest ih =>
    simp only [List.length_cons, ih]
    omega

/-- The only register of a string of at most four bytes holds them, padded with zero bytes. -/
theorem singleRegister_byte {b : Vector Byte 4} {bytes : List Byte} (hb : ∀ (k : Nat) (hk : k < 4), b[k] = bytes[k]?.getD 0)
    {r k : Nat} (hk : k < 4) {w : BusWord} (hw : [leDecode b][r]? = some w) :
    w.extractLsb' (8 * k) 8 = bytes[4 * r + k]?.getD 0 := by
  cases r with
  | zero =>
    cases hw
    rw [extractLsb'_leDecode b hk, hb k hk, Nat.mul_zero, Nat.zero_add]
  | succ r => simp at hw

/-- Byte `k` of packed register `r` is byte `4r + k` of the string, or a padding zero beyond its end (30_encoding.md R83). -/
theorem packBytes_byte {bytes : List Byte} {r k : Nat} (hk : k < 4) {w : BusWord} (hw : (packBytes bytes)[r]? = some w) :
    w.extractLsb' (8 * k) 8 = bytes[4 * r + k]?.getD 0 := by
  fun_induction packBytes bytes generalizing r with
  | case1 => simp at hw
  | case2 a => exact singleRegister_byte (by intro k hk; interval_cases k <;> rfl) hk hw
  | case3 a b => exact singleRegister_byte (by intro k hk; interval_cases k <;> rfl) hk hw
  | case4 a b c => exact singleRegister_byte (by intro k hk; interval_cases k <;> rfl) hk hw
  | case5 a b c d rest ih =>
    cases r with
    | zero =>
      cases hw
      rw [extractLsb'_leDecode _ hk]
      interval_cases k <;> rfl
    | succ r =>
      rw [ih hw, show 4 * (r + 1) + k = 4 * r + k + 4 by omega]
      rfl

/-- The bytes of a buffer in which a byte string has been stored (30_encoding.md R83). -/
theorem bufByte_storeFrom_packBytes {m : Nat} (buf : Vector BusWord m) (bytes : List Byte) (b : Nat) (h : b < 4 * m) :
    bufByte (storeFrom buf 0 (packBytes bytes)) b h =
      if h' : b < bytes.length then bytes[b]
      else if b / 4 < (bytes.length + 3) / 4 then 0
      else bufByte buf b h := by
  rw [bufByte, storeFrom_getElem, if_pos (Nat.zero_le _), Nat.sub_zero]
  have hlen := packBytes_length bytes
  by_cases hreg : b / 4 < (bytes.length + 3) / 4
  · have hw := List.getElem?_eq_getElem (hlen.symm ▸ hreg)
    rw [hw, Option.getD_some, packBytes_byte (Nat.mod_lt b (by decide)) hw, Nat.div_add_mod]
    split_ifs with hin
    · rw [List.getElem?_eq_getElem hin, Option.getD_some]
    · rw [List.getElem?_eq_none (by omega), Option.getD_none]
  · rw [List.getElem?_eq_none (by omega), Option.getD_none, dif_neg (by omega), if_neg hreg]
    rfl

/-- Settles O58: the string's registers are stored one write each, and its length is written last. -/
theorem byteLoadsFillTheBuffers : Obligations.ByteLoadsFillTheBuffers := by
  constructor
  · intro s bytes hidle hf hlen hhost
    have hstore := reaches_keybuf hidle hf (by rw [packBytes_length]; omega) hhost
    obtain ⟨n, hrun⟩ := hstore.then_write (a := 3) hidle hf (by decide) rfl
    exact ⟨n, _, hrun, bufByte_storeFrom_packBytes s.keybuf bytes⟩
  · intro s bytes hidle hf hlen hhost
    have hstore := reaches_blkbuf hidle hf (by rw [packBytes_length]; omega) hhost
    obtain ⟨n, hrun⟩ := hstore.then_write (a := 4) hidle hf (by decide) rfl
    exact ⟨n, _, hrun, bufByte_storeFrom_packBytes s.blkbuf bytes⟩

/-! ### Words -/

section Words
variable {v : Variant}

theorem wordRegs_one (hv : v.wordBits = 32) (w : Word v) : wordRegs w = [w.extractLsb' 0 32] := by
  rw [wordRegs, v.wordBytes_eq_four hv]
  rfl

theorem wordRegs_two (hv : v.wordBits = 64) (w : Word v) : wordRegs w = [w.extractLsb' 0 32, w.extractLsb' 32 32] := by
  rw [wordRegs, v.wordBytes_eq_eight hv]
  rfl

/-- A word has 32 or 64 bits (00_scope.md R7). -/
theorem wordBits_cases (v : Variant) : v.wordBits = 32 ∨ v.wordBits = 64 := by
  cases v with
  | speck64x96 => exact .inl rfl
  | speck64x128 => exact .inl rfl
  | _ => exact .inr rfl

theorem wordRegs_length_le (w : Word v) : (wordRegs w).length ≤ 2 := by
  rcases wordBits_cases v with hv | hv
  · simp [wordRegs_one hv]
  · simp [wordRegs_two hv]

/-- The registers of two words, stored from BLKBUF0 upward, are the two block words written (20_memory.md R59). -/
theorem storeFrom_wordRegs (buf : Vector BusWord 4) (w0 w1 : Word v) :
    storeFrom buf 0 (wordRegs w0 ++ wordRegs w1) = setBlkWord v (setBlkWord v buf 0 w0) 1 w1 := by
  rcases wordBits_cases v with hv | hv
  · rw [wordRegs_one hv, wordRegs_one hv, setBlkWord_one v _ 1 _ hv, setBlkWord_one v _ 0 _ hv, List.singleton_append,
      storeFrom_cons buf (by decide), storeFrom_cons _ (by decide)]
    rfl
  · rw [wordRegs_two hv, wordRegs_two hv, setBlkWord_two v _ 1 _ hv, setBlkWord_two v _ 0 _ hv, List.cons_append,
      List.singleton_append]
    iterate 4 rw [storeFrom_cons _ (by decide)]
    rfl

end Words

/-- Settles O59: the words' registers are stored one write each, which writes the two block words. -/
theorem wordLoadFillsTheBlock : Obligations.WordLoadFillsTheBlock := by
  intro s w0 w1 hidle hf hhost
  have hlen : (wordRegs w0 ++ wordRegs w1).length ≤ 4 := by
    have h0 := wordRegs_length_le w0
    have h1 := wordRegs_length_le w1
    rw [List.length_append]
    omega
  obtain ⟨n, hrun⟩ := reaches_blkbuf hidle hf hlen (rest := []) (by rw [List.append_nil]; exact hhost)
  rw [storeFrom_wordRegs] at hrun
  exact ⟨n, hrun⟩

end Sys2Proof.Machine
end
